-- ==== Sys2Proof/Word.lean ====
section
/-! DEFINITION. The word types of SCC: the bit vectors `Bits(n)` of 00_scope.md R13 at the widths R7 fixes, and texts
as sequences of 8-bit bytes (R16). A `BitVec n` is at the same time the unsigned integer it spells; nothing is signed. -/

namespace Sys2Proof

/-- A 32-bit word: what one port transaction moves (20_memory.md R47), a command, a checksum, a subkey. -/
abbrev Word := BitVec 32

/-- One 8-bit byte: a character of a text, a field width register (00_scope.md R16, 10_state.md R25). -/
abbrev Byte := BitVec 8

/-- A 64-bit payload or record register (00_scope.md R7, R11). -/
abbrev Dword := BitVec 64

/-- A 128-bit block, normalized secret or whitening (00_scope.md R7). -/
abbrev Block := BitVec 128

/-- One hexadecimal digit (00_scope.md R7, R19). -/
abbrev Nibble := BitVec 4

/-- A word index of the register port, `0x00 .. 0x7F` (20_memory.md R40). -/
abbrev Index := BitVec 7

/-- A text: a sequence of 8-bit bytes (00_scope.md R16). -/
abbrev Text := List Byte

end Sys2Proof
end

