-- ==== Sys2Proof/Syntax.lean ====
section
/-! DEFINITION. The sixteen commands of SCC (30_encoding.md R56), one constructor per row of the opcode table, in its order. -/

namespace Sys2Proof

/-- A command. The only operand is the input byte of PUTC (30_encoding.md R57); every other command works on fixed registers. -/
inductive Instr where
  /-- NOP, op 0x00 (45_toplevel.md R131). -/
  | nop
  /-- INIT, op 0x01 (45_toplevel.md R132). -/
  | init
  /-- INITE, op 0x02 (45_toplevel.md R133). -/
  | inite
  /-- VALIDATE, op 0x03 (40_schemacodec.md R75). -/
  | validate
  /-- ENCODE, op 0x10 (45_toplevel.md R134). -/
  | encode
  /-- DECODE, op 0x11 (45_toplevel.md R135). -/
  | decode
  /-- PACK, op 0x20 (40_schemacodec.md R76). -/
  | pack
  /-- UNPACK, op 0x21 (40_schemacodec.md R77). -/
  | unpack
  /-- COMPUTE, op 0x22 (42_checksumengine.md R99). -/
  | compute
  /-- VERIFY, op 0x23 (42_checksumengine.md R100). -/
  | verify
  /-- MASK, op 0x24 (43_ciphermixer.md R108). -/
  | mask
  /-- UNMASK, op 0x25 (43_ciphermixer.md R109). -/
  | unmask
  /-- FORMAT, op 0x26 (44_formatter.md R121). -/
  | format
  /-- PARSE, op 0x27 (44_formatter.md R124). -/
  | parse
  /-- TXCLR, op 0x30 (44_formatter.md R122). -/
  | txclr
  /-- PUTC c, op 0x31 (44_formatter.md R123). -/
  | putc (c : Byte)
deriving DecidableEq, Repr

end Sys2Proof
end

