-- ==== Sys2Proof/WellFormed.lean ====
section
/-! DEFINITION. When a command word is well formed, by the field checks of 30_encoding.md R55 and R59, written without the
opcode table of the decoder. Every term of `Instr` is a well-formed command: its one operand is a byte by its type
(R57, `0 .. 255`). -/

namespace Sys2Proof.CommandWord

/-- The opcodes of the table (30_encoding.md R56). -/
def knownOps : List Byte :=
  [0x00, 0x01, 0x02, 0x03, 0x10, 0x11, 0x20, 0x21, 0x22, 0x23, 0x24, 0x25, 0x26, 0x27, 0x30, 0x31]

/-- Check 1: bits [31:16] are 0 (30_encoding.md R55). -/
def zeroFieldClear (w : Word) : Bool := w.extractLsb' 16 16 == 0

/-- Check 2: bits [7:0] are an opcode of the table. -/
def opKnown (w : Word) : Bool := knownOps.contains (w.extractLsb' 0 8)

/-- Check 3: bits [15:8] are 0 for every command but PUTC. -/
def argAllowed (w : Word) : Bool := w.extractLsb' 8 8 == 0 || w.extractLsb' 0 8 == 0x31

/-- A word that selects a command; every other word is illegal (30_encoding.md R59, 60_exceptions.md R158). -/
def wellFormed (w : Word) : Bool := zeroFieldClear w && opKnown w && argAllowed w

end Sys2Proof.CommandWord
end

