-- ==== Sys2Proof/Decode.lean ====
section
/-! DEFINITION. Decoding a command word by the mask and match table of 30_encoding.md R56, total on all 2^32 words (R58) and
rejecting by name (R59), and the encoder, written from the format of R55. -/

namespace Sys2Proof

/-- The `arg` field, bits [15:8] (30_encoding.md R55, R57). -/
def argOf (w : Word) : Byte := w.extractLsb' 8 8

/-- The `op` field, bits [7:0] (30_encoding.md R55). -/
def opOf (w : Word) : Byte := w.extractLsb' 0 8

/-- The `zero` field, bits [31:16] (30_encoding.md R55). -/
def zeroOf (w : Word) : BitVec 16 := w.extractLsb' 16 16

/-- A row of the opcode table (30_encoding.md R56): a word `w` selects it when `w AND mask = pattern`. -/
structure OpcodeRow where
  pattern : Word
  mask : Word
  /-- The command, given the word's `arg` field. -/
  command : Byte → Instr

/-- The row selects the word (30_encoding.md R56). -/
def OpcodeRow.selects (r : OpcodeRow) (w : Word) : Bool := w &&& r.mask == r.pattern

/-- The sixteen rows of 30_encoding.md R56. -/
def opcodeRows : List OpcodeRow :=
  [ ⟨0x00000000, 0xFFFFFFFF, fun _ => .nop⟩,
    ⟨0x00000001, 0xFFFFFFFF, fun _ => .init⟩,
    ⟨0x00000002, 0xFFFFFFFF, fun _ => .inite⟩,
    ⟨0x00000003, 0xFFFFFFFF, fun _ => .validate⟩,
    ⟨0x00000010, 0xFFFFFFFF, fun _ => .encode⟩,
    ⟨0x00000011, 0xFFFFFFFF, fun _ => .decode⟩,
    ⟨0x00000020, 0xFFFFFFFF, fun _ => .pack⟩,
    ⟨0x00000021, 0xFFFFFFFF, fun _ => .unpack⟩ ] ++
  [ ⟨0x00000022, 0xFFFFFFFF, fun _ => .compute⟩,
    ⟨0x00000023, 0xFFFFFFFF, fun _ => .verify⟩,
    ⟨0x00000024, 0xFFFFFFFF, fun _ => .mask⟩,
    ⟨0x00000025, 0xFFFFFFFF, fun _ => .unmask⟩,
    ⟨0x00000026, 0xFFFFFFFF, fun _ => .format⟩,
    ⟨0x00000027, 0xFFFFFFFF, fun _ => .parse⟩,
    ⟨0x00000030, 0xFFFFFFFF, fun _ => .txclr⟩,
    ⟨0x00000031, 0xFFFF00FF, fun c => .putc c⟩ ]

/-- Why a word selects no row (60_exceptions.md R158). All three are one error to the machine. -/
inductive IllegalWord where
  /-- The `zero` field is not 0. -/
  | zeroFieldSet
  /-- The `op` field is not in the table. -/
  | unknownOp
  /-- The `arg` field is not 0 with a command other than PUTC. -/
  | argSet
deriving DecidableEq, Repr

/-- What decoding a word gives. -/
inductive Decoded where
  | command (i : Instr)
  | illegal (why : IllegalWord)
deriving DecidableEq, Repr

/-- The name of the first check of 30_encoding.md R59 that an illegal word fails. -/
def illegalReason (w : Word) : IllegalWord :=
  if zeroOf w ≠ 0 then .zeroFieldSet
  else if !CommandWord.opKnown w then .unknownOp
  else .argSet

/-- Decoding, total (30_encoding.md R58): the row that selects the word, with `c = w[15:8]`; no row, no command. -/
def decode (w : Word) : Decoded :=
  match opcodeRows.find? (·.selects w) with
  | some r => .command (r.command (argOf w))
  | none => .illegal (illegalReason w)

/-- A command word of the one format: `zero = 0`, `arg`, `op` (30_encoding.md R55). -/
def commandWord (arg op : Byte) : Word := 0#16 ++ arg ++ op

/-- The word of a command (30_encoding.md R56, R62). -/
def encode : Instr → Word
  | .nop => commandWord 0 0x00
  | .init => commandWord 0 0x01
  | .inite => commandWord 0 0x02
  | .validate => commandWord 0 0x03
  | .encode => commandWord 0 0x10
  | .decode => commandWord 0 0x11
  | .pack => commandWord 0 0x20
  | .unpack => commandWord 0 0x21
  | .compute => commandWord 0 0x22
  | .verify => commandWord 0 0x23
  | .mask => commandWord 0 0x24
  | .unmask => commandWord 0 0x25
  | .format => commandWord 0 0x26
  | .parse => commandWord 0 0x27
  | .txclr => commandWord 0 0x30
  | .putc c => commandWord c 0x31

/-- The command word whose `nbits` bits are `w`, numbered as the opcode table numbers them. SCC has one length, 32 bits
(30_encoding.md R55, R61). DESIGN CHOICE (log entry 12), for the lengths that SCC does not have: fewer bits are extended with zeros,
of more bits the low 32 are kept. -/
def tableWord (nbits w : Nat) : Word := BitVec.ofNat 32 (w % 2 ^ nbits)

/-- The decoder on an opcode-table word. SCC has one length, 32 bits (30_encoding.md R55, R61).
DESIGN CHOICE (log entry 12): a shorter word is decoded as its zero extension, a longer word is no command. -/
def decodeTableWord (nbits w : Nat) : Option Instr :=
  if nbits ≤ 32 then
    match decode (tableWord nbits w) with
    | .command i => some i
    | .illegal _ => none
  else none

end Sys2Proof
end

