-- ==== Sys2Proof/Machine/State.lean ====
section
/-! DEFINITION. The state of one SCC instance: every register of 10_state.md R20 under its own name, and the model's own three
fields (the host's pending transactions, what reads returned, the count of draws). -/

namespace Sys2Proof.Machine

/-- The two states of the state machine and no others (10_state.md R23, 45_toplevel.md R130). -/
inductive Mode where
  /-- `STATE = 0`. -/
  | uninitialized
  /-- `STATE = 1`. -/
  | ready
deriving DecidableEq, Repr

/-- What the outside world does to SCC, one event at a time (20_memory.md R41, R42, R46, R50; 70_reset_and_hazards.md R170). -/
inductive HostEvent where
  /-- `PortRead(idx)`. -/
  | read (idx : Index)
  /-- `PortWrite(idx, v)`. -/
  | write (idx : Index) (v : Word)
  /-- A read of `bytes` bytes at byte address `addr` of a byte-addressed bus in front of SCC. -/
  | busRead (addr bytes : Nat)
  /-- A write of `bytes` bytes at byte address `addr` of a byte-addressed bus in front of SCC. -/
  | busWrite (addr bytes : Nat) (v : Word)
  /-- The reset input; it falls between two transactions (93_implementation_defined.md U14). -/
  | reset
deriving DecidableEq, Repr

/-- The architectural state, complete (10_state.md R20), and the model's own fields. -/
structure State where
  /-- The state machine (R23). -/
  STATE : Mode
  /-- Result code of the most recent command, 4 bits (R24). -/
  ERR : BitVec 4
  /-- Staged number of fields, 5 bits (R25). -/
  SCH_NF_IN : BitVec 5
  /-- Staged field widths in nibbles (R25). -/
  SCH_W_IN : Vector Byte 16
  /-- Staged normalized secret (R26). -/
  KEY_IN : Block
  /-- Active number of fields, 5 bits (R27). -/
  NF : BitVec 5
  /-- Active field widths in nibbles (R27). -/
  W : Vector Byte 16
  /-- Active subkey `pre` (R28). -/
  PRE : Word
  /-- Active subkey `index` (R28). -/
  INDEX : Word
  /-- Active subkey `post` (R28). -/
  POST : Word
  /-- The record: one value per field position (R21). -/
  REC : Vector Dword 16
  /-- Payload (R29). -/
  PAY : Dword
  /-- Checksum (R29). -/
  CHK : Word
  /-- The whitened block (R29). -/
  BLK : Block
  /-- Hex digits collected from input text (R30). -/
  HEXBUF : Block
  /-- How many hex digits were seen, saturating at 33 (R30). -/
  HEXCNT : BitVec 6
  /-- Token text, 36 bytes (R31). -/
  TOK_OUT : Vector Byte 36
  /-- The model's own: host events not yet served, the next one first (10_state.md R22; log entry 1). -/
  host : List HostEvent
  /-- The model's own: the values port reads have returned, oldest first (30_encoding.md R62; log entry 2). -/
  seen : List Word
  /-- The model's own: how many draws `RND` have been taken (00_scope.md R9; log entry 4). -/
  draws : Nat
deriving DecidableEq, Repr

/-- SCC raises no fault: it has no traps (60_exceptions.md R161), no state blocks it (93_implementation_defined.md section 1) and
every command terminates (70_reset_and_hazards.md R180). So no step of this model ends in one. -/
inductive Fault where
deriving DecidableEq, Repr

/-- Why the model has no next state. -/
inductive Refusal where
  /-- Raised by an arm of exec whose instruction has no meaning yet; no arm raises it. Safe. -/
  | notModelled (mnemonic : String)
  /-- Raised by a bus access that a bridge must not forward: narrow, misaligned, or outside SCC's 128 words (20_memory.md R46:
  "A model refuses such an access"). Safe: the hardware outside SCC goes on in a way the spec does not give. -/
  | busAccessNotForwarded (addr bytes : Nat)
deriving DecidableEq, Repr

/-- The outcome of one command or one host event. -/
abbrev Result := Host.Outcome State Fault Refusal

/-- After reset every register is zero (10_state.md R35, 70_reset_and_hazards.md R171). The last three fields are the model's
own (DESIGN CHOICE, log entry 7). -/
def State.reset : State :=
  { STATE := .uninitialized, ERR := 0, SCH_NF_IN := 0, SCH_W_IN := Vector.replicate 16 0, KEY_IN := 0,
    NF := 0, W := Vector.replicate 16 0, PRE := 0, INDEX := 0, POST := 0,
    REC := Vector.replicate 16 0, PAY := 0, CHK := 0, BLK := 0, HEXBUF := 0, HEXCNT := 0,
    TOK_OUT := Vector.replicate 36 0, host := [], seen := [], draws := 0 }

namespace State

def setSTATE (v : Mode) (s : State) : State := { s with STATE := v }
def setERR (v : BitVec 4) (s : State) : State := { s with ERR := v }
def setSCH_NF_IN (v : BitVec 5) (s : State) : State := { s with SCH_NF_IN := v }
def setSCH_W_IN (v : Vector Byte 16) (s : State) : State := { s with SCH_W_IN := v }
def setKEY_IN (v : Block) (s : State) : State := { s with KEY_IN := v }
/-- The active schema and the active subkeys change together (10_state.md R36(e)). -/
def setConfig (nf : BitVec 5) (w : Vector Byte 16) (pre index post : Word) (s : State) : State :=
  { s with NF := nf, W := w, PRE := pre, INDEX := index, POST := post }
def setREC (v : Vector Dword 16) (s : State) : State := { s with REC := v }
def setPAY (v : Dword) (s : State) : State := { s with PAY := v }
def setCHK (v : Word) (s : State) : State := { s with CHK := v }
def setBLK (v : Block) (s : State) : State := { s with BLK := v }
def setHEXBUF (v : Block) (s : State) : State := { s with HEXBUF := v }
def setHEXCNT (v : BitVec 6) (s : State) : State := { s with HEXCNT := v }
def setTOK_OUT (v : Vector Byte 36) (s : State) : State := { s with TOK_OUT := v }
def setHost (v : List HostEvent) (s : State) : State := { s with host := v }
def setSeen (v : List Word) (s : State) : State := { s with seen := v }
def setDraws (v : Nat) (s : State) : State := { s with draws := v }

end State

end Sys2Proof.Machine
end

