-- ==== Sys2Proof/Machine/Flags.lean ====
section
/-! DEFINITION. The status items: the error codes of 60_exceptions.md R151 and the READY bit of `STATUS` (10_state.md R23). -/

namespace Sys2Proof.Machine

/-- The results a command can report (60_exceptions.md R151). -/
inductive ErrCode where
  | ok
  | invalidSchema
  | uninitialized
  | malformedToken
  | formatInvalid
  | checksumMismatch
  | illegalCommand
deriving DecidableEq, Repr

/-- The number of a result in `ERR` (60_exceptions.md R151); 7 to 15 never occur (10_state.md R24). -/
def ErrCode.code : ErrCode → BitVec 4
  | .ok => 0
  | .invalidSchema => 1
  | .uninitialized => 2
  | .malformedToken => 3
  | .formatInvalid => 4
  | .checksumMismatch => 5
  | .illegalCommand => 6

/-- `STATE` as one bit: 0 = `Uninitialized`, 1 = `Ready` (10_state.md R20, R23). -/
def Mode.bit : Mode → BitVec 1
  | .uninitialized => 0
  | .ready => 1

end Sys2Proof.Machine
end

