-- ==== Sys2Proof/Machine/Operands.lean ====
section
/-! DEFINITION. The views of operands: bit strings (00_scope.md R13 to R15), hex digits and characters (R15, R16), the words of
wide registers (20_memory.md R44, R45) and the field widths of a schema (10_state.md R25, R27). -/

namespace Sys2Proof.Machine

/-! ### Bit strings -/

/-- The number of bits left after removing leading zero bits (00_scope.md R14). -/
def bitlen {n : Nat} (v : BitVec n) : Nat := if v = 0 then 0 else Nat.log2 v.toNat + 1

/-- The vector without its leading zero bits (00_scope.md R14). -/
def strip {n : Nat} (v : BitVec n) : BitVec (bitlen v) := v.setWidth (bitlen v)

/-- XOR of bit strings, the shorter zero-extended on the left (00_scope.md R15). -/
def xorStr {n m : Nat} (a : BitVec n) (b : BitVec m) : BitVec (max n m) := a.setWidth (max n m) ^^^ b.setWidth (max n m)

/-- OR of bit strings, the shorter zero-extended on the left (00_scope.md R15). -/
def orStr {n m : Nat} (a : BitVec n) (b : BitVec m) : BitVec (max n m) := a.setWidth (max n m) ||| b.setWidth (max n m)

/-! ### Hex digits of a block -/

/-- Digit `j` of a 128-bit value, counted from the left from 0: `v<4j .. 4j+4)` (00_scope.md R15). -/
def nib (v : Block) (j : Nat) : Nibble := v.extractLsb' (124 - 4 * j) 4

/-- The value with digit `j`, `j < 32`, replaced: the write `v<4j .. 4j+4) <- d`. -/
def setNib (v : Block) (j : Nat) (d : Nibble) : Block :=
  (v &&& ~~~(0xF#128 <<< (124 - 4 * j))) ||| (d.setWidth 128 <<< (124 - 4 * j))

/-- The block whose digits are the given ones, the first leftmost (00_scope.md R15). -/
def joinNibs (ds : List Nibble) : Block := ds.foldl (fun b d => (b <<< 4) ||| d.setWidth 128) 0

/-! ### Characters (byte values: 00_scope.md R16; log entry 17) -/

/-- The value of a hex character, either case; `none` for every other byte (00_scope.md R16). -/
def hexval (b : Byte) : Option Nibble :=
  if 0x30 ≤ b.toNat ∧ b.toNat ≤ 0x39 then some (BitVec.ofNat 4 (b.toNat - 0x30))
  else if 0x61 ≤ b.toNat ∧ b.toNat ≤ 0x66 then some (BitVec.ofNat 4 (b.toNat - 0x61 + 10))
  else if 0x41 ≤ b.toNat ∧ b.toNat ≤ 0x46 then some (BitVec.ofNat 4 (b.toNat - 0x41 + 10))
  else none

/-- The lowercase character of a digit (00_scope.md R16). -/
def hexchar (d : Nibble) : Byte :=
  if d.toNat < 10 then BitVec.ofNat 8 (0x30 + d.toNat) else BitVec.ofNat 8 (0x61 + d.toNat - 10)

/-- The hyphen (00_scope.md R16). -/
def hyphen : Byte := 0x2D

/-- The values of the hex characters of a text, in order; everything else is dropped (44_formatter.md R116). -/
def hexDigits (input : Text) : List Nibble := input.filterMap hexval

/-! ### The words of wide registers -/

/-- The 32-bit part `q` of a 128-bit register, part 0 most significant (20_memory.md R43, R44). -/
def part128 (v : Block) (q : Nat) : Word := v.extractLsb' (96 - 32 * q) 32

/-- The register with its part `q` replaced. -/
def setPart128 (v : Block) (q : Nat) (x : Word) : Block :=
  (if q = 0 then x else part128 v 0) ++ (if q = 1 then x else part128 v 1)
    ++ (if q = 2 then x else part128 v 2) ++ (if q = 3 then x else part128 v 3)

/-- The high word of a 64-bit register (20_memory.md R43). -/
def hi64 (v : Dword) : Word := v.extractLsb' 32 32

/-- The low word of a 64-bit register (20_memory.md R43). -/
def lo64 (v : Dword) : Word := v.extractLsb' 0 32

/-- Byte `j` of a word, byte 0 most significant (20_memory.md R44, R45). -/
def byteIn (x : Word) (j : Nat) : Byte := x.extractLsb' (24 - 8 * j) 8

/-- The word `q` of a register file of bytes: four bytes, the lowest number most significant (20_memory.md R44, R45). -/
def packBytes {n : Nat} (v : Vector Byte n) (q : Nat) : Word :=
  v[4 * q]?.getD 0 ++ v[4 * q + 1]?.getD 0 ++ v[4 * q + 2]?.getD 0 ++ v[4 * q + 3]?.getD 0

/-- The register file with its word `q` replaced (20_memory.md R44). -/
def setPackedBytes {n : Nat} (v : Vector Byte n) (q : Nat) (x : Word) : Vector Byte n :=
  Vector.ofFn fun k => if k.val / 4 = q then byteIn x (k.val % 4) else v[k]

/-! ### Schemas -/

/-- Width registers as natural numbers, field 0 first: sums of widths do not wrap (00_scope.md R17, 40_schemacodec.md R79). -/
def widthList (w : Vector Byte 16) : List Nat := w.toList.map BitVec.toNat

/-- The record registers as the integers they hold, field 0 first. -/
def recordList (r : Vector Dword 16) : List Nat := r.toList.map BitVec.toNat

end Sys2Proof.Machine
end

