-- ==== Sys2Proof/Machine/Ops.lean ====
section
/-! DEFINITION. The operations every command is made of: `ok` and `fail E` (00_scope.md R17, 60_exceptions.md R152), stages run one
after another with early exit (45_toplevel.md R134, R135), and the test for `Ready` (60_exceptions.md R156). SCC has no traps:
`fail` is what it has in place of taking an exception (R161), and there is no return from one (R162). -/

namespace Sys2Proof.Machine

/-- `ok`: the command completed, `ERR <- 0` (00_scope.md R17). -/
def ok (s : State) : State := s.setERR ErrCode.ok.code

/-- `fail E`: `ERR <- code(E)` and the command ends; nothing else is written (60_exceptions.md R152). -/
def fail (e : ErrCode) (s : State) : State := s.setERR e.code

/-- How a stage of a command ends. -/
inductive Stage where
  /-- The stage succeeded and its writes are committed. -/
  | done (s : State)
  /-- The stage found an error; the state holds the writes of the stages before it. -/
  | failed (e : ErrCode) (s : State)
deriving DecidableEq, Repr

/-- The next stage reads what the last one wrote; a failure ends the command (45_toplevel.md R134, R135). -/
def Stage.andThen (r : Stage) (next : State → Stage) : Stage :=
  match r with
  | .done s => next s
  | .failed e s => .failed e s

/-- The end of a command: every command writes `ERR` (10_state.md R24). -/
def Stage.finish : Stage → State
  | .done s => ok s
  | .failed e s => fail e s

/-- The first test of a command that reads the active configuration (60_exceptions.md R156). -/
def whenReady (s : State) : Stage :=
  match s.STATE with
  | .ready => .done s
  | .uninitialized => .failed .uninitialized s

/-- What an illegal command word does: `ERR <- 6` and nothing else (30_encoding.md R59). -/
def illegalCommand (s : State) : State := fail .illegalCommand s

end Sys2Proof.Machine
end

