-- ==== Sys2Proof/Machine/ChecksumEngine.lean ====
section
/-! DEFINITION. ChecksumEngine (42_checksumengine.md): the keyed bit-diffusion checksum in six steps, and the commands COMPUTE and
VERIFY. Positions in `working` are MSB-0 (00_scope.md R13): position 0 is the most significant bit. -/

namespace Sys2Proof.Machine

/-- Steps 1 and 2: `working0 = (highPre XOR pre) ‖ lowPost` (42_checksumengine.md R91, R92). -/
def working0 (pre : Word) (payload : Dword) : Dword := (hi64 payload ^^^ pre) ++ lo64 payload

/-- The 32-bit window `working<i .. i+32)`, zero bits appended on the right past position 63 (42_checksumengine.md R93). -/
def window (working : Dword) (i : Nat) : Word := (working <<< i).extractLsb' 32 32

/-- A window's value laid at position `i` of a 64-bit buffer; what runs past position 63 is dropped (42_checksumengine.md R93). -/
def placeWindow (x : Word) (i : Nat) : Dword := (x ++ 0#32 : BitVec 64) >>> i

/-- Write a window back at the same position, truncated at the buffer end (42_checksumengine.md R93). -/
def writeWindow (working : Dword) (i : Nat) (x : Word) : Dword :=
  (working &&& ~~~(placeWindow (BitVec.allOnes 32) i)) ||| placeWindow x i

/-- One scan step: if bit `i` of the current buffer is 1, XOR its window with `index` in place (42_checksumengine.md R93). -/
def scanStep (index : Word) (working : Dword) (i : Nat) : Dword :=
  if working.getMsbD i then writeWindow working i (window working i ^^^ index) else working

/-- The first `n` steps of the scan, `i = 0, 1, ...`, each index once and upward, the buffer mutated in place. -/
def scan (index : Word) (working : Dword) : Nat → Dword
  | 0 => working
  | n + 1 => scanStep index (scan index working n) n

/-- Step 3, the diffusion pass over positions 0 to 63 (42_checksumengine.md R93). -/
def diffuse (working : Dword) (index : Word) : Dword := scan index working 64

/-- One scan step in integer form (42_checksumengine.md R103). -/
def scanStepInt (index : Word) (working : Dword) (i : Nat) : Dword :=
  if (working >>> (63 - i)) &&& 1 = 1 then
    if i ≤ 32 then working ^^^ (index.setWidth 64 <<< (32 - i)) else working ^^^ (index.setWidth 64 >>> (i - 32))
  else working

/-- The pass in integer form (42_checksumengine.md R103). -/
def diffuseInt (working : Dword) (index : Word) : Dword := (List.range 64).foldl (scanStepInt index) working

/-- `compute(pre, index, post, payload)`: after the pass, strip leading zeros (step 4, R94), XOR with `post`, the shorter extended
on the left (step 5, R95), and bring to 32 bits, keeping the low-order ones (step 6, R96; log entry 15). -/
def compute (pre index post : Word) (payload : Dword) : Word :=
  (xorStr (strip (diffuse (working0 pre payload) index)) post).setWidth 32

/-- `verify(pre, index, post, payload, claimed)` (42_checksumengine.md R98). -/
def verify (pre index post : Word) (payload : Dword) (claimed : Word) : Bool := compute pre index post payload == claimed

/-- Stage compute: `CHK <- compute(PRE, INDEX, POST, PAY)` (42_checksumengine.md R99). -/
def stageCompute (s : State) : Stage := .done (s.setCHK (compute s.PRE s.INDEX s.POST s.PAY))

/-- Stage verify: nothing is written; ChecksumMismatch when the recomputed checksum differs (42_checksumengine.md R100). -/
def stageVerify (s : State) : Stage :=
  if verify s.PRE s.INDEX s.POST s.PAY s.CHK then .done s else .failed .checksumMismatch s

/-- COMPUTE (42_checksumengine.md R99). -/
def execCompute (s : State) : Result := .next ((whenReady s).andThen stageCompute).finish

/-- VERIFY (42_checksumengine.md R100). -/
def execVerify (s : State) : Result := .next ((whenReady s).andThen stageVerify).finish

end Sys2Proof.Machine
end

