-- ==== Sys2Proof/Config.lean ====
section
/-! DEFINITION. What an implementation fixes and the spec leaves open: the parameters of 10_state.md R34. Each is a
constant without a body, so that nothing can be proved of its value and every claim holds for all of them. -/

namespace Sys2Proof.Config

/-- What `STATE` becomes when INIT or INITE fails validation (00_scope.md R10). -/
inductive InitFailState where
  /-- `STATE` goes to `Uninitialized` (the spec's default). -/
  | uninit
  /-- `STATE` keeps its value. -/
  | unchanged
deriving DecidableEq, Repr, Inhabited

/-- The 128-bit digest of a byte string: total, deterministic, otherwise unknown (00_scope.md R8, 41_keymaterial.md R81). -/
opaque digest128 : Text → Block

/-- The bytes of a checksum that the digest is given: unspecified (00_scope.md R8). -/
opaque chkrepr : Word → Text

/-- The draw `RND` of the `n`-th INITE: a free 128-bit value under no law; draws may repeat (00_scope.md R9).
DESIGN CHOICE (log entry 4): the counter `draws` of State says which draw is next. -/
opaque draw : Nat → Block

/-- The parameter `INIT_FAIL_STATE`, open (00_scope.md R10). -/
opaque initFailState : InitFailState

/-- The whitening function `W(c) = digest128(chkrepr(c))` (00_scope.md R8, 43_ciphermixer.md R105): as unknown as its two parts. -/
def whiten (c : Word) : Block := digest128 (chkrepr c)

end Sys2Proof.Config
end

