-- ==== Sys2Proof/Machine/CipherMixer.lean ====
section
/-! DEFINITION. CipherMixer (43_ciphermixer.md): mask and unmask, over a whitening function `wf` given as an argument, and the
commands MASK and UNMASK, which use the unknown one of the configuration (00_scope.md R8, 43_ciphermixer.md R105). -/

namespace Sys2Proof.Machine

/-- The part of a whitening over the checksum, `[127:96]` (43_ciphermixer.md R105). -/
def whHead (wh : Block) : Word := wh.extractLsb' 96 32

/-- The part of a whitening over the payload, `[95:32]` (43_ciphermixer.md R105). -/
def whBody (wh : Block) : Dword := wh.extractLsb' 32 64

/-- `mask(checksum, payload)`: both whitened, then a clear copy of the checksum (43_ciphermixer.md R106). -/
def mask (wf : Word → Block) (checksum : Word) (payload : Dword) : Block :=
  (checksum ^^^ whHead (wf checksum)) ++ (payload ^^^ whBody (wf checksum)) ++ checksum

/-- `unmask(token128)`: the clear copy, and the payload, if the two copies of the checksum agree (43_ciphermixer.md R107). -/
def unmask (wf : Word → Block) (b : Block) : Option (Word × Dword) :=
  let c1 : Word := b.extractLsb' 0 32
  let wh := wf c1
  let c2 : Word := b.extractLsb' 96 32 ^^^ whHead wh
  let payload : Dword := b.extractLsb' 32 64 ^^^ whBody wh
  if c1 = c2 then some (c1, payload) else none

/-- Stage mask: `BLK <- mask(CHK, PAY)` (43_ciphermixer.md R108). -/
def stageMask (wf : Word → Block) (s : State) : Stage := .done (s.setBLK (mask wf s.CHK s.PAY))

/-- Stage unmask: `CHK`, `PAY` from `BLK`, or FormatInvalid and nothing written (43_ciphermixer.md R109). -/
def stageUnmask (wf : Word → Block) (s : State) : Stage :=
  match unmask wf s.BLK with
  | some (c, p) => .done ((s.setCHK c).setPAY p)
  | none => .failed .formatInvalid s

/-- MASK (43_ciphermixer.md R108). -/
def execMask (s : State) : Result := .next (stageMask Config.whiten s).finish

/-- UNMASK (43_ciphermixer.md R109). -/
def execUnmask (s : State) : Result := .next (stageUnmask Config.whiten s).finish

end Sys2Proof.Machine
end

