-- ==== Sys2Proof/Machine/Formatter.lean ====
section
/-! DEFINITION. Formatter (44_formatter.md): toToken and parse, and the commands FORMAT, TXCLR, PUTC, PARSE. -/

namespace Sys2Proof.Machine

/-- The text positions of the hyphens (44_formatter.md R126). -/
def isHyphenAt (t : Nat) : Bool := t == 8 || t == 13 || t == 18 || t == 23

/-- `d(t)`: the hex digit shown at a text position that holds no hyphen (44_formatter.md R115). -/
def digitAt (t : Nat) : Nat :=
  if t < 8 then t else if t < 13 then t - 1 else if t < 18 then t - 2 else if t < 23 then t - 3 else t - 4

/-- The character at text position `t` (44_formatter.md R115). -/
def tokenChar (b : Block) (t : Nat) : Byte := if isHyphenAt t then hyphen else hexchar (nib b (digitAt t))

/-- `toToken(b)`: 36 characters, 32 lowercase hex digits grouped 8-4-4-4-12 (44_formatter.md R115, R126). -/
def toToken (b : Block) : Vector Byte 36 := Vector.ofFn fun t => tokenChar b t.val

/-- `parse(input)`: exactly 32 hex characters after everything else is dropped, or MalformedToken (44_formatter.md R116). -/
def parse (input : Text) : Option Block :=
  if (hexDigits input).length = 32 then some (joinNibs (hexDigits input)) else none

/-- Stage toToken: `TOK_OUT <- toToken(BLK)` (44_formatter.md R121). -/
def stageFormat (s : State) : Stage := .done (s.setTOK_OUT (toToken s.BLK))

/-- Stage TXCLR (44_formatter.md R122). -/
def stageTxclr (s : State) : Stage := .done ((s.setHEXBUF 0).setHEXCNT 0)

/-- Stage PUTC: a hex character is stored while fewer than 32 were seen, and counted up to 33; any other byte changes nothing
(44_formatter.md R123). -/
def stagePutc (c : Byte) (s : State) : Stage :=
  match hexval c with
  | some d =>
    let buf := if s.HEXCNT.toNat < 32 then setNib s.HEXBUF s.HEXCNT.toNat d else s.HEXBUF
    .done ((s.setHEXBUF buf).setHEXCNT (BitVec.ofNat 6 (min (s.HEXCNT.toNat + 1) 33)))
  | none => .done s

/-- Stage parse: `BLK <- HEXBUF` if exactly 32 hex characters were put (44_formatter.md R124). -/
def stageParse (s : State) : Stage := if s.HEXCNT = 32 then .done (s.setBLK s.HEXBUF) else .failed .malformedToken s

/-- FORMAT (44_formatter.md R121). -/
def execFormat (s : State) : Result := .next (stageFormat s).finish

/-- PARSE (44_formatter.md R124). -/
def execParse (s : State) : Result := .next (stageParse s).finish

/-- TXCLR (44_formatter.md R122). -/
def execTxclr (s : State) : Result := .next (stageTxclr s).finish

/-- PUTC c (44_formatter.md R123). -/
def execPutc (c : Byte) (s : State) : Result := .next (stagePutc c s).finish

end Sys2Proof.Machine
end

