-- ==== Sys2Proof/Machine/KeyMaterial.lean ====
section
/-! DEFINITION. KeyMaterial (41_keymaterial.md): `derive128`, which runs inside INIT and INITE, and the driver's `normalise`. -/

namespace Sys2Proof.Machine

/-- The three subkeys (00_scope.md R19). -/
structure Subkeys where
  pre : Word
  index : Word
  post : Word
deriving DecidableEq, Repr

/-- `derive128(K)`: the first three 32-bit slices of the secret, the top bit of `index` forced to 1; the last slice is unused
(41_keymaterial.md R82, R83). -/
def derive128 (k : Block) : Subkeys :=
  { pre := k.extractLsb' 96 32
    index := (orStr (k.extractLsb' 64 32) 0x80000000#32).setWidth 32
    post := k.extractLsb' 32 32 }

/-- What `normalise` gives (41_keymaterial.md R81). -/
inductive Normalised where
  | key (k : Block)
  /-- The secret is empty: a fresh key must be drawn. -/
  | ephemeral
deriving DecidableEq, Repr

/-- `normalise(secret)` with the digest as a parameter (41_keymaterial.md R81): empty is ephemeral; exactly 32 hex characters are the
digits of the key; anything else is digested whole. -/
def normaliseWith (digest : Text → Block) (secret : Text) : Normalised :=
  if secret.length = 0 then .ephemeral
  else if secret.length = 32 ∧ (hexDigits secret).length = 32 then .key (joinNibs (hexDigits secret))
  else .key (digest secret)

/-- The driver's `normalise` (41_keymaterial.md R81), over the unknown digest of 00_scope.md R8. -/
def normalise (secret : Text) : Normalised := normaliseWith Config.digest128 secret

end Sys2Proof.Machine
end

