-- ==== Sys2Proof/Machine/SchemaCodec.lean ====
section
/-! DEFINITION. SchemaCodec (40_schemacodec.md): validate, pack and unpack, and the commands VALIDATE, PACK, UNPACK. A schema is
`(n, w)`: `n` fields whose widths in nibbles are the first `n` entries of `w`. -/

namespace Sys2Proof.Machine

/-- `validate(n, w)` (40_schemacodec.md R70). -/
def validate (n : Nat) (w : List Nat) : Bool :=
  decide (n ≤ 16) && (w.take n).all (fun x => decide (1 ≤ x))
    && decide (1 ≤ (w.take n).sum) && decide ((w.take n).sum ≤ 16)

/-- `w[k]`, the width of field `k`. -/
def widthAt (w : List Nat) (k : Nat) : Nat := w.getD k 0

/-- `off(k)`: the nibble position where field `k` starts (40_schemacodec.md R71). -/
def off (w : List Nat) (k : Nat) : Nat := (w.take k).sum

/-- `sh(k)`: the number of payload bits to the right of field `k` (40_schemacodec.md R71). -/
def sh (w : List Nat) (k : Nat) : Nat := 64 - 4 * (off w k + widthAt w k)

/-- `f(k) = rec[k] mod 16^w[k]`: the low-order digits of a value, as many as its field is wide (40_schemacodec.md R72). -/
def fieldValue (w : List Nat) (k : Nat) (v : Nat) : Nat := v % 16 ^ widthAt w k

/-- `pack(n, w, rec)`: the sum over `k < n` of `f(k) * 2^sh(k)` (40_schemacodec.md R72). The rule defines it for a valid schema
only; DESIGN CHOICE for any other, which no reachable state holds (log entry 10). -/
def pack (n : Nat) (w : List Nat) (record : List Nat) : Dword :=
  BitVec.ofNat 64 ((List.range n).map fun k => fieldValue w k (record.getD k 0) * 2 ^ sh w k).sum

/-- `unpack(n, w, pay)[k] = (pay >> sh(k)) mod 16^w[k]` (40_schemacodec.md R73); for a schema that is not valid see log entry 10. -/
def unpackField (w : List Nat) (pay : Dword) (k : Nat) : Nat := (pay.toNat >>> sh w k) % 16 ^ widthAt w k

/-- `unpack(n, w, pay)`: a value for every field of the schema and for nothing else (40_schemacodec.md R73). -/
def unpack (n : Nat) (w : List Nat) (pay : Dword) : List Nat := (List.range n).map (unpackField w pay)

/-- The staged schema is valid: the test of VALIDATE, INIT and INITE (60_exceptions.md R153). -/
def stagedValid (s : State) : Bool := validate s.SCH_NF_IN.toNat (widthList s.SCH_W_IN)

/-- Stage validate (40_schemacodec.md R75). -/
def stageValidate (s : State) : Stage := if stagedValid s then .done s else .failed .invalidSchema s

/-- Stage pack: `PAY <- pack(NF, W, REC)` (40_schemacodec.md R76). -/
def stagePack (s : State) : Stage := .done (s.setPAY (pack s.NF.toNat (widthList s.W) (recordList s.REC)))

/-- `REC[k]` for `k < NF` from the payload; the others unchanged (40_schemacodec.md R77). -/
def unpackedRecord (s : State) : Vector Dword 16 :=
  Vector.ofFn fun k => if k.val < s.NF.toNat then BitVec.ofNat 64 (unpackField (widthList s.W) s.PAY k.val) else s.REC[k]

/-- Stage unpack (40_schemacodec.md R77). -/
def stageUnpack (s : State) : Stage := .done (s.setREC (unpackedRecord s))

/-- VALIDATE (40_schemacodec.md R75). -/
def execValidate (s : State) : Result := .next (stageValidate s).finish

/-- PACK (40_schemacodec.md R76). -/
def execPack (s : State) : Result := .next ((whenReady s).andThen stagePack).finish

/-- UNPACK (40_schemacodec.md R77). -/
def execUnpack (s : State) : Result := .next ((whenReady s).andThen stageUnpack).finish

end Sys2Proof.Machine
end

