-- ==== Sys2Proof/Machine/TopLevel.lean ====
section
/-! DEFINITION. The top-level commands of 45_toplevel.md: NOP, INIT, INITE, ENCODE, DECODE. -/

namespace Sys2Proof.Machine

/-- `W[k] <- SCH_W_IN[k] if k < SCH_NF_IN else 0` (45_toplevel.md R132). -/
def activatedWidths (s : State) : Vector Byte 16 :=
  Vector.ofFn fun k => if k.val < s.SCH_NF_IN.toNat then s.SCH_W_IN[k] else 0

/-- What `STATE` becomes when initialisation fails (45_toplevel.md R132). -/
def failedInitMode (p : Config.InitFailState) (m : Mode) : Mode :=
  match p with
  | .uninit => .uninitialized
  | .unchanged => m

/-- Initialisation with a normalized secret (45_toplevel.md R132, R133). On failure only `STATE` and `ERR` are written; on success
schema, subkeys and `STATE` are replaced together. -/
def initialise (p : Config.InitFailState) (key : Block) (s : State) : Stage :=
  if stagedValid s then
    let k := derive128 key
    .done ((s.setConfig s.SCH_NF_IN (activatedWidths s) k.pre k.index k.post).setSTATE .ready)
  else .failed .invalidSchema (s.setSTATE (failedInitMode p s.STATE))

/-- Take the next draw `RND`, a fresh free value at every INITE (41_keymaterial.md R85; log entry 4). -/
def takeDraw (s : State) : State := s.setDraws (s.draws + 1)

/-- ENCODE's stages (45_toplevel.md R134), over a whitening function. -/
def encodeStages (wf : Word → Block) (s : State) : Stage :=
  (((((whenReady s).andThen stagePack).andThen stageCompute).andThen (stageMask wf)).andThen stageFormat)

/-- DECODE's stages (45_toplevel.md R135), over a whitening function. -/
def decodeStages (wf : Word → Block) (s : State) : Stage :=
  (((((whenReady s).andThen stageParse).andThen (stageUnmask wf)).andThen stageVerify).andThen stageUnpack)

/-- NOP (45_toplevel.md R131). -/
def execNop (s : State) : Result := .next (ok s)

/-- INIT (45_toplevel.md R132). -/
def execInit (s : State) : Result := .next (initialise Config.initFailState s.KEY_IN s).finish

/-- INITE (45_toplevel.md R133): INIT with the draw in place of `KEY_IN`. -/
def execInite (s : State) : Result :=
  .next (initialise Config.initFailState (Config.draw s.draws) (takeDraw s)).finish

/-- ENCODE (45_toplevel.md R134). -/
def execEncode (s : State) : Result := .next (encodeStages Config.whiten s).finish

/-- DECODE (45_toplevel.md R135). -/
def execDecode (s : State) : Result := .next (decodeStages Config.whiten s).finish

end Sys2Proof.Machine
end

