-- ==== Sys2Proof/Machine/Dispatch.lean ====
section
/-! DEFINITION. One arm per command: its meaning (30_encoding.md R56, R58). -/

namespace Sys2Proof.Machine

def exec (i : Instr) (s : State) : Host.Outcome State Fault Refusal :=
  match i with
  | .nop => Sys2Proof.Machine.execNop s
  | .init => Sys2Proof.Machine.execInit s
  | .inite => Sys2Proof.Machine.execInite s
  | .validate => Sys2Proof.Machine.execValidate s
  | .encode => Sys2Proof.Machine.execEncode s
  | .decode => Sys2Proof.Machine.execDecode s
  | .pack => Sys2Proof.Machine.execPack s
  | .unpack => Sys2Proof.Machine.execUnpack s
  | .compute => Sys2Proof.Machine.execCompute s
  | .verify => Sys2Proof.Machine.execVerify s
  | .mask => Sys2Proof.Machine.execMask s
  | .unmask => Sys2Proof.Machine.execUnmask s
  | .format => Sys2Proof.Machine.execFormat s
  | .parse => Sys2Proof.Machine.execParse s
  | .txclr => Sys2Proof.Machine.execTxclr s
  | .putc c => Sys2Proof.Machine.execPutc c s

end Sys2Proof.Machine
end

