-- ==== Sys2Proof/Machine/RegMap.lean ====
section
/-! DEFINITION. The register address space (20_memory.md): the map from word indices to locations (R43), what each location reads
as (R41) and what a write to a data location does (R42(b), (c), R48). -/

namespace Sys2Proof.Machine

/-- A location of the map (20_memory.md R43). The argument is the word or field number. -/
inductive Loc where
  | cmd | status | err | hexcnt
  | keyIn (q : Fin 4)
  | schNfIn
  | schWIn (q : Fin 4)
  | nf
  | w (q : Fin 4)
  | pre | index | post | chk | payHi | payLo
  | blk (q : Fin 4)
  | hexbuf (q : Fin 4)
  | tokOut (q : Fin 9)
  | recHi (k : Fin 16)
  | recLo (k : Fin 16)
  | unmapped
deriving DecidableEq, Repr

/-- The location at a word index (20_memory.md R43). -/
def locate (idx : Index) : Loc :=
  let n := idx.toNat
  if n = 0x00 then .cmd
  else if n = 0x01 then .status
  else if n = 0x02 then .err
  else if n = 0x03 then .hexcnt
  else if n ≤ 0x07 then .keyIn (Fin.ofNat 4 (n - 0x04))
  else if n = 0x08 then .schNfIn
  else if n ≤ 0x0B then .unmapped
  else if n ≤ 0x0F then .schWIn (Fin.ofNat 4 (n - 0x0C))
  else if n = 0x10 then .nf
  else if n ≤ 0x13 then .unmapped
  else if n ≤ 0x17 then .w (Fin.ofNat 4 (n - 0x14))
  else if n = 0x18 then .pre
  else if n = 0x19 then .index
  else if n = 0x1A then .post
  else if n = 0x1B then .unmapped
  else if n = 0x1C then .chk
  else if n = 0x1D then .unmapped
  else if n = 0x1E then .payHi
  else if n = 0x1F then .payLo
  else if n ≤ 0x23 then .blk (Fin.ofNat 4 (n - 0x20))
  else if n ≤ 0x27 then .hexbuf (Fin.ofNat 4 (n - 0x24))
  else if n ≤ 0x30 then .tokOut (Fin.ofNat 9 (n - 0x28))
  else if n ≤ 0x3F then .unmapped
  else if n ≤ 0x5F then (if n % 2 = 0 then .recHi (Fin.ofNat 16 ((n - 0x40) / 2)) else .recLo (Fin.ofNat 16 ((n - 0x40) / 2)))
  else .unmapped

/-- The word index of a named location (20_memory.md R43); an unmapped location has no name. -/
def Loc.idx : Loc → Option Index
  | .cmd => some 0x00
  | .status => some 0x01
  | .err => some 0x02
  | .hexcnt => some 0x03
  | .keyIn q => some (BitVec.ofNat 7 (0x04 + q.val))
  | .schNfIn => some 0x08
  | .schWIn q => some (BitVec.ofNat 7 (0x0C + q.val))
  | .nf => some 0x10
  | .w q => some (BitVec.ofNat 7 (0x14 + q.val))
  | .pre => some 0x18
  | .index => some 0x19
  | .post => some 0x1A
  | .chk => some 0x1C
  | .payHi => some 0x1E
  | .payLo => some 0x1F
  | .blk q => some (BitVec.ofNat 7 (0x20 + q.val))
  | .hexbuf q => some (BitVec.ofNat 7 (0x24 + q.val))
  | .tokOut q => some (BitVec.ofNat 7 (0x28 + q.val))
  | .recHi k => some (BitVec.ofNat 7 (0x40 + 2 * k.val))
  | .recLo k => some (BitVec.ofNat 7 (0x41 + 2 * k.val))
  | .unmapped => none

/-- What a location reads as, zero-extended to 32 bits; `CMD` and unmapped locations read 0 (20_memory.md R41, R43 to R45, R48). -/
def Loc.read (s : State) : Loc → Word
  | .cmd => 0
  | .status => s.STATE.bit.setWidth 32
  | .err => s.ERR.setWidth 32
  | .hexcnt => s.HEXCNT.setWidth 32
  | .keyIn q => part128 s.KEY_IN q.val
  | .schNfIn => s.SCH_NF_IN.setWidth 32
  | .schWIn q => packBytes s.SCH_W_IN q.val
  | .nf => s.NF.setWidth 32
  | .w q => packBytes s.W q.val
  | .pre => s.PRE
  | .index => s.INDEX
  | .post => s.POST
  | .chk => s.CHK
  | .payHi => hi64 s.PAY
  | .payLo => lo64 s.PAY
  | .blk q => part128 s.BLK q.val
  | .hexbuf q => part128 s.HEXBUF q.val
  | .tokOut q => packBytes s.TOK_OUT q.val
  | .recHi k => hi64 s.REC[k]
  | .recLo k => lo64 s.REC[k]
  | .unmapped => 0

/-- What writing a data location does: a host-writable register takes the bits it has and the other bits are ignored; a write to a
read-only or unmapped location is ignored, and `ERR` is never touched (20_memory.md R42(b), (c), R48). A write to `CMD` stores
nothing (10_state.md R32); what it executes is `command` of Port.lean. -/
def Loc.write (v : Word) (s : State) : Loc → State
  | .cmd => s
  | .status => s
  | .err => s
  | .hexcnt => s
  | .keyIn q => s.setKEY_IN (setPart128 s.KEY_IN q.val v)
  | .schNfIn => s.setSCH_NF_IN (v.setWidth 5)
  | .schWIn q => s.setSCH_W_IN (setPackedBytes s.SCH_W_IN q.val v)
  | .nf => s
  | .w _ => s
  | .pre => s
  | .index => s
  | .post => s
  | .chk => s.setCHK v
  | .payHi => s.setPAY (v ++ lo64 s.PAY)
  | .payLo => s.setPAY (hi64 s.PAY ++ v)
  | .blk q => s.setBLK (setPart128 s.BLK q.val v)
  | .hexbuf _ => s
  | .tokOut _ => s
  | .recHi k => s.setREC (s.REC.set k.val (v ++ lo64 s.REC[k]) k.isLt)
  | .recLo k => s.setREC (s.REC.set k.val (hi64 s.REC[k] ++ v) k.isLt)
  | .unmapped => s

/-- `PortRead(idx)` (20_memory.md R41): the value; it changes no register. -/
def portRead (s : State) (idx : Index) : Word := (locate idx).read s

/-- The word index a bridge presents for a bus access (20_memory.md R46): `byte_address / 4` for an aligned 32-bit access.
DESIGN CHOICE (log entry 9): an address past the 128 words selects no location of SCC. -/
def bridgeIndex (addr bytes : Nat) : Option Index :=
  if bytes = 4 ∧ addr % 4 = 0 ∧ addr / 4 < 128 then some (BitVec.ofNat 7 (addr / 4)) else none

end Sys2Proof.Machine
end

