-- ==== Sys2Proof/Machine/Port.lean ====
section
/-! DEFINITION. The host's transactions (20_memory.md R41, R42, R46) and the reset input (70_reset_and_hazards.md R171): how each
host event is served, one at a time, a command to its end before the next (R50). -/

namespace Sys2Proof.Machine

/-- A word written to `CMD` is executed as a command; a word that selects none does `ERR <- 6` (30_encoding.md R58, R59). -/
def command (w : Word) (s : State) : Result :=
  match decode w with
  | .command i => exec i s
  | .illegal _ => .next (illegalCommand s)

/-- `PortWrite(idx, v)` (20_memory.md R42). -/
def portWrite (idx : Index) (v : Word) (s : State) : Result :=
  match locate idx with
  | .cmd => command v s
  | l => .next (l.write v s)

/-- `PortRead(idx)` as a transaction of a program: the value read is observed, no register changes (20_memory.md R41,
30_encoding.md R62). -/
def observeRead (idx : Index) (s : State) : State := s.setSeen (s.seen ++ [portRead s idx])

/-- Every register at its reset value (70_reset_and_hazards.md R171). The model's own fields, which are no registers, stay
(DESIGN CHOICE, log entry 16). -/
def resetRegisters (s : State) : State :=
  ((State.reset.setHost s.host).setSeen s.seen).setDraws s.draws

/-- Serve one host event. -/
def serve (e : HostEvent) (s : State) : Result :=
  match e with
  | .read idx => .next (observeRead idx s)
  | .write idx v => portWrite idx v s
  | .busRead addr bytes =>
    match bridgeIndex addr bytes with
    | some idx => .next (observeRead idx s)
    | none => .refused (.busAccessNotForwarded addr bytes)
  | .busWrite addr bytes v =>
    match bridgeIndex addr bytes with
    | some idx => portWrite idx v s
    | none => .refused (.busAccessNotForwarded addr bytes)
  | .reset => .next (resetRegisters s)

/-- Serve a list of host events in the order the host issues them (20_memory.md R50). -/
def serveAll (es : List HostEvent) (s : State) : Result :=
  match es with
  | [] => .next s
  | e :: es =>
    match serve e s with
    | .next s' => serveAll es s'
    | .fault r => .fault r
    | .refused r => .refused r

/-- Serve the next pending host event. With none pending nothing happens: only a port write and reset change state
(00_scope.md R18; DESIGN CHOICE, log entry 3). -/
def serveNext (s : State) : Result :=
  match s.host with
  | [] => .next s
  | e :: rest => serve e (s.setHost rest)

/-- The host event that carries a command word: a write to `CMD`, index 0x00 (20_memory.md R43). -/
def commandEvent (w : Word) : HostEvent := .write 0x00 w

end Sys2Proof.Machine
end

