-- ==== Sys2Proof/Machine/Step.lean ====
section
/-! DEFINITION. One step of the machine: the next host event is served. SCC fetches nothing and has no program counter
(10_state.md R22); the program is the list of the host's transactions (log entry 1). -/

namespace Sys2Proof.Machine

def step (s : State) : Host.Outcome State Fault Refusal := serveNext s

/-- The state in which the very next step runs the command whose `nbits` bits are `w`: the host's next transaction is the write
of that word to `CMD`. DESIGN CHOICE (log entry 12): a shorter word is extended with zeros, and of a longer word, which
`decodeTableWord` refuses, the low 32 bits are written, since `CMD` takes no more. -/
def State.withFetchWord (s : State) (nbits w : Nat) : State :=
  s.setHost (commandEvent (tableWord nbits w) :: s.host)

end Sys2Proof.Machine
end

