-- ==== Sys2Proof/Machine/Assembler.lean ====
section
/-! DEFINITION. The notation programs are written in (30_encoding.md R62, R63): statements, their expansion into host transactions,
the values their reads return, joined, and the claims of `expect`, held against the values observed. -/

namespace Sys2Proof.Machine

/-- The 64-bit registers of `wr64` and `rd64` (30_encoding.md R63). -/
inductive Wide64 where
  | pay
  | record (k : Fin 16)
deriving DecidableEq, Repr

/-- The 128-bit registers of `wr128` and `rd128` (30_encoding.md R63). -/
inductive Wide128 where
  | keyIn
  | blk
  | hexbuf
deriving DecidableEq, Repr

/-- A statement (30_encoding.md R62, R63). -/
inductive Stmt where
  | wr (name : Loc) (v : Word)
  | rd (name : Loc)
  | wrIdx (idx : Index) (v : Word)
  | rdIdx (idx : Index)
  /-- A mnemonic alone. -/
  | cmd (i : Instr)
  | wr64 (name : Wide64) (v : Dword)
  | wr128 (name : Wide128) (v : Block)
  | schema (ws : List Nat)
  | puts (text : Text)
  | rd64 (name : Wide64)
  | rd128 (name : Wide128)
  | rdtext
  | expect (name : Loc) (v : Word)
  /-- `rd idx N -> v`: 95_test_vectors.md section 4 reads a line with a value as an `expect`. -/
  | expectIdx (idx : Index) (v : Word)
  | expect64 (name : Wide64) (v : Dword)
  | expect128 (name : Wide128) (v : Block)
  | expectText (text : Text)
deriving DecidableEq, Repr

/-- The two words of a 64-bit register, most significant first. -/
def Wide64.words : Wide64 → List Loc
  | .pay => [.payHi, .payLo]
  | .record k => [.recHi k, .recLo k]

/-- The four words of a 128-bit register, most significant first. -/
def Wide128.words : Wide128 → List Loc
  | .keyIn => [.keyIn 0, .keyIn 1, .keyIn 2, .keyIn 3]
  | .blk => [.blk 0, .blk 1, .blk 2, .blk 3]
  | .hexbuf => [.hexbuf 0, .hexbuf 1, .hexbuf 2, .hexbuf 3]

/-- The nine words of the token text. -/
def textWords : List Loc := (List.finRange 9).map Loc.tokOut

/-- The words of a 64-bit value, most significant first (20_memory.md R44). -/
def words64 (v : Dword) : List Word := [hi64 v, lo64 v]

/-- The words of a 128-bit value, most significant first (20_memory.md R44). -/
def words128 (v : Block) : List Word := [part128 v 0, part128 v 1, part128 v 2, part128 v 3]

/-- The word `q` of four staged widths, `(w(4q) << 24) OR (w(4q+1) << 16) OR (w(4q+2) << 8) OR w(4q+3)` with absent widths 0
(30_encoding.md R63). -/
def widthWord (ws : List Nat) (q : Nat) : Word :=
  (BitVec.ofNat 32 (ws.getD (4 * q) 0) <<< 24) ||| (BitVec.ofNat 32 (ws.getD (4 * q + 1) 0) <<< 16)
    ||| (BitVec.ofNat 32 (ws.getD (4 * q + 2) 0) <<< 8) ||| BitVec.ofNat 32 (ws.getD (4 * q + 3) 0)

/-- A write to a named location; a location without a name has no statement. -/
def wrLoc (name : Loc) (v : Word) : List HostEvent := (name.idx.map fun i => HostEvent.write i v).toList

/-- A read of a named location. -/
def rdLoc (name : Loc) : List HostEvent := (name.idx.map HostEvent.read).toList

/-- The transactions of a statement (30_encoding.md R62, R63). -/
def Stmt.expand : Stmt → List HostEvent
  | .wr name v => wrLoc name v
  | .rd name => rdLoc name
  | .wrIdx idx v => [.write idx v]
  | .rdIdx idx => [.read idx]
  | .cmd i => [commandEvent (encode i)]
  | .wr64 name v => (List.zipWith wrLoc name.words (words64 v)).flatten
  | .wr128 name v => (List.zipWith wrLoc name.words (words128 v)).flatten
  | .schema ws =>
    wrLoc .schNfIn (BitVec.ofNat 32 ws.length)
      ++ ((List.finRange 4).map fun q => wrLoc (.schWIn q) (widthWord ws q.val)).flatten
  | .puts text => text.map fun b => commandEvent (encode (.putc b))
  | .rd64 name => (name.words.map rdLoc).flatten
  | .rd128 name => (name.words.map rdLoc).flatten
  | .rdtext => (textWords.map rdLoc).flatten
  | .expect name _ => rdLoc name
  | .expectIdx idx _ => [.read idx]
  | .expect64 name _ => (name.words.map rdLoc).flatten
  | .expect128 name _ => (name.words.map rdLoc).flatten
  | .expectText _ => (textWords.map rdLoc).flatten

/-- A statement the notation admits: names of mapped locations, `wr128` to `KEY_IN` or `BLK`, a schema of at most 16 one-byte
widths, an expected text of 36 bytes (30_encoding.md R62, R63). -/
def Stmt.wellFormed : Stmt → Bool
  | .wr name _ => name.idx.isSome
  | .rd name => name.idx.isSome
  | .expect name _ => name.idx.isSome
  | .expectIdx _ _ => true
  | .wr128 name _ => name != .hexbuf
  | .schema ws => decide (ws.length ≤ 16) && ws.all (fun w => decide (w < 256))
  | .expectText text => decide (text.length = 36)
  | .wrIdx _ _ => true
  | .rdIdx _ => true
  | .cmd _ => true
  | .wr64 _ _ => true
  | .puts _ => true
  | .rd64 _ => true
  | .rd128 _ => true
  | .rdtext => true
  | .expect64 _ _ => true
  | .expect128 _ _ => true

/-- A program: the transactions of its statements in order (10_state.md R22, 30_encoding.md R62). -/
def assemble (program : List Stmt) : List HostEvent := (program.map Stmt.expand).flatten

/-- The two words of a 64-bit register joined, most significant first (20_memory.md R44, 30_encoding.md R63).
DESIGN CHOICE (log entry 18): a missing word counts as 0. -/
def join64 (ws : List Word) : Dword := ws.getD 0 0 ++ ws.getD 1 0

/-- The four words of a 128-bit register joined, most significant first (20_memory.md R44, 30_encoding.md R63).
DESIGN CHOICE (log entry 18): a missing word counts as 0. -/
def join128 (ws : List Word) : Block := ws.getD 0 0 ++ ws.getD 1 0 ++ ws.getD 2 0 ++ ws.getD 3 0

/-- The bytes of a word, most significant first (20_memory.md R45). -/
def wordBytes (w : Word) : Text := [byteIn w 0, byteIn w 1, byteIn w 2, byteIn w 3]

/-- The words of a text joined, the first character the most significant byte of the first word (20_memory.md R45,
30_encoding.md R63). -/
def joinText (ws : List Word) : Text := (ws.map wordBytes).flatten

/-- The value `rd64` reads through the port (30_encoding.md R63). As a function of the state it appends nothing to `seen`; the
statement `Stmt.rd64` of a program does (log entries 2 and 21). -/
def rd64 (name : Wide64) (s : State) : Dword := join64 (name.words.map (Loc.read s))

/-- The value `rd128` reads through the port (30_encoding.md R63), as `rd64`. -/
def rd128 (name : Wide128) (s : State) : Block := join128 (name.words.map (Loc.read s))

/-- The value `rdtext` reads: the 36 bytes of the token text, read through the port (30_encoding.md R63), as `rd64`. -/
def rdText (s : State) : Text := joinText (textWords.map (Loc.read s))

/-- A value that a statement reads or claims (30_encoding.md R62, R63). -/
inductive ReadValue where
  | word (v : Word)
  | dword (v : Dword)
  | block (v : Block)
  | text (v : Text)
deriving DecidableEq, Repr

/-- The value a statement reads, joined from the words `ws` its own reads returned; a write reads none (30_encoding.md R62, R63). -/
def Stmt.value (ws : List Word) : Stmt → Option ReadValue
  | .rd _ => ws.head?.map .word
  | .rdIdx _ => ws.head?.map .word
  | .expect _ _ => ws.head?.map .word
  | .expectIdx _ _ => ws.head?.map .word
  | .rd64 _ => some (.dword (join64 ws))
  | .expect64 _ _ => some (.dword (join64 ws))
  | .rd128 _ => some (.block (join128 ws))
  | .expect128 _ _ => some (.block (join128 ws))
  | .rdtext => some (.text (joinText ws))
  | .expectText _ => some (.text (joinText ws))
  | .wr _ _ => none
  | .wrIdx _ _ => none
  | .cmd _ => none
  | .wr64 _ _ => none
  | .wr128 _ _ => none
  | .schema _ => none
  | .puts _ => none

/-- The value a statement claims to read: only `expect` claims (30_encoding.md R63). -/
def Stmt.claim : Stmt → Option ReadValue
  | .expect _ v => some (.word v)
  | .expectIdx _ v => some (.word v)
  | .expect64 _ v => some (.dword v)
  | .expect128 _ v => some (.block v)
  | .expectText v => some (.text v)
  | .rd _ => none
  | .rdIdx _ => none
  | .rd64 _ => none
  | .rd128 _ => none
  | .rdtext => none
  | .wr _ _ => none
  | .wrIdx _ _ => none
  | .cmd _ => none
  | .wr64 _ _ => none
  | .wr128 _ _ => none
  | .schema _ => none
  | .puts _ => none

/-- A transaction whose value is observed. -/
def HostEvent.observes : HostEvent → Bool
  | .read _ => true
  | .busRead _ _ => true
  | .write _ _ => false
  | .busWrite _ _ _ => false
  | .reset => false

/-- How many values a statement observes. -/
def Stmt.reads (st : Stmt) : Nat := st.expand.countP HostEvent.observes

/-- The claim of a statement holds of the words its own reads returned: the value read is the value claimed; a statement without a
claim holds (30_encoding.md R63). -/
def Stmt.holds (ws : List Word) (st : Stmt) : Bool := st.claim.isNone || decide (st.value ws = st.claim)

/-- The values a program observes, from the words its reads returned in order (30_encoding.md R62, R63). -/
def programValues (program : List Stmt) (ws : List Word) : List ReadValue :=
  match program with
  | [] => []
  | st :: rest => (st.value (ws.take st.reads)).toList ++ programValues rest (ws.drop st.reads)

/-- Every claim of a program holds of the words its reads returned in order (30_encoding.md R63). -/
def programClaims (program : List Stmt) (ws : List Word) : Bool :=
  match program with
  | [] => true
  | st :: rest => st.holds (ws.take st.reads) && programClaims rest (ws.drop st.reads)

/-- A program run to its end from a state reads what its `expect` statements claim (30_encoding.md R63).
DESIGN CHOICE (log entry 18): the claims are held against the observed values after the run, and a program that stops holds none. -/
def programHolds (program : List Stmt) (s : State) : Bool :=
  match serveAll (assemble program) s with
  | .next t => programClaims program (t.seen.drop s.seen.length)
  | .fault _ => false
  | .refused _ => false

end Sys2Proof.Machine
end

