-- ==== Sys2Proof/Machine/Driver.lean ====
section
/-! DEFINITION. The driver (layer D, 45_toplevel.md section 4): Initialize, Encode and Decode of GUID §6 as host scripts over the
register port. The digest is a parameter of each operation that needs it; the driver of this system uses the unknown one. -/

namespace Sys2Proof.Machine

/-- The driver beside the hardware: the ordered field names of the last successful Initialize (45_toplevel.md section 4). -/
structure Driver where
  names : List Text
  hw : State
deriving DecidableEq, Repr

/-- The driver a run starts from: `names` is initially empty (45_toplevel.md section 4), beside the hardware after reset
(10_state.md R35). DESIGN CHOICE (log entry 20): each operation takes the driver it starts from as an argument, so a caller may
supply another. -/
def Driver.initial : Driver := { names := [], hw := State.reset }

/-- A width as a caller gives it (45_toplevel.md R140; log entry 11). -/
inductive WidthArg where
  | int (i : Int)
  | notInteger
deriving DecidableEq, Repr

/-- A schema as a caller gives it: an ordered list of names and widths. -/
abbrev SchemaArg := List (Text × WidthArg)

/-- A record: a mapping from names to non-negative integers, as a list in which the first entry of a name counts (log entry 11). -/
abbrev Record := List (Text × Nat)

/-- The width that is staged (45_toplevel.md R140): 1 to 255 as given, above 255 clamped to 255, everything else 0. -/
def clampWidth : WidthArg → Nat
  | .int i => if 1 ≤ i then (if i ≤ 255 then i.toNat else 255) else 0
  | .notInteger => 0

/-- The staging writes of Initialize: `SCH_NF_IN <- min(n, 31)`, then the first 16 widths, unused slots 0 (45_toplevel.md R140). -/
def schemaScript (schema : SchemaArg) : List HostEvent :=
  let ws := (schema.take 16).map fun f => clampWidth f.2
  wrLoc .schNfIn (BitVec.ofNat 32 (min schema.length 31))
    ++ ((List.finRange 4).map fun q => wrLoc (.schWIn q) (widthWord ws q.val)).flatten

/-- The key writes and the command of Initialize (45_toplevel.md R140). -/
def keyScript : Normalised → List HostEvent
  | .key k => (Stmt.wr128 .keyIn k).expand ++ (Stmt.cmd .init).expand
  | .ephemeral => (Stmt.cmd .inite).expand

/-- `rd ERR` by the driver. DESIGN CHOICE (log entry 21): the driver consumes the values it reads (`rd ERR`, `rdtext`, `rd64`), so
its reads are not appended to the observed values `seen`. -/
def rdErr (s : State) : Word := portRead s 0x02

/-- `Initialize(schema, key)` with the digest as a parameter (45_toplevel.md R140): the success flag and the driver after it. -/
def Driver.initializeWith (digest : Text → Block) (d : Driver) (schema : SchemaArg) (key : Text) :
    Host.Outcome (Bool × Driver) Fault Refusal :=
  if (schema.map Prod.fst).Nodup then
    match serveAll (schemaScript schema ++ keyScript (normaliseWith digest key)) d.hw with
    | .next hw =>
      if rdErr hw = 0 then .next (true, { names := schema.map Prod.fst, hw := hw })
      else .next (false, { d with hw := hw })
    | .fault r => .fault r
    | .refused r => .refused r
  else .next (false, d)

/-- `Initialize(schema, key)` (45_toplevel.md R140). -/
def Driver.initialize (d : Driver) (schema : SchemaArg) (key : Text) : Host.Outcome (Bool × Driver) Fault Refusal :=
  Driver.initializeWith Config.digest128 d schema key

/-- The value of a name in a record, 0 if absent, reduced to a register (40_schemacodec.md R78, 45_toplevel.md R141). -/
def recordValue (record : Record) (name : Text) : Dword := BitVec.ofNat 64 ((record.lookup name).getD 0)

/-- The script of Encode: the record registers of the schema's names, then `encode` (45_toplevel.md R141). -/
def encodeScript (names : List Text) (record : Record) : List HostEvent :=
  (names.zipIdx.map fun f => (Stmt.wr64 (.record (Fin.ofNat 16 f.2)) (recordValue record f.1)).expand).flatten
    ++ (Stmt.cmd .encode).expand

/-- `rd64 REC[k]` by the driver, read through the port (30_encoding.md R63) and not appended to `seen` (log entry 21). -/
def rdRecord (s : State) (k : Fin 16) : Dword := rd64 (.record k) s

/-- `Encode(record)` (45_toplevel.md R141): the token text, or `none` on failure. -/
def Driver.encode (d : Driver) (record : Record) : Host.Outcome (Option Text × Driver) Fault Refusal :=
  match serveAll (encodeScript d.names record) d.hw with
  | .next hw => .next (if rdErr hw = 0 then some (rdText hw) else none, { d with hw := hw })
  | .fault r => .fault r
  | .refused r => .refused r

/-- The script of Decode: `txclr`, one `putc` per byte, `decode` (45_toplevel.md R142). -/
def decodeScript (text : Text) : List HostEvent :=
  (Stmt.cmd .txclr).expand ++ (Stmt.puts text).expand ++ (Stmt.cmd .decode).expand

/-- The record the driver returns: each name with its register (40_schemacodec.md R78, 45_toplevel.md R142). -/
def resultRecord (names : List Text) (s : State) : Record :=
  names.zipIdx.map fun f => (f.1, (rdRecord s (Fin.ofNat 16 f.2)).toNat)

/-- `Decode(tokenText)` (45_toplevel.md R142): the record, or the error code the driver passes on. -/
def Driver.decode (d : Driver) (text : Text) : Host.Outcome ((Word ⊕ Record) × Driver) Fault Refusal :=
  match serveAll (decodeScript text) d.hw with
  | .next hw => .next (if rdErr hw = 0 then .inr (resultRecord d.names hw) else .inl (rdErr hw), { d with hw := hw })
  | .fault r => .fault r
  | .refused r => .refused r

end Sys2Proof.Machine
end

