-- ==== Sys2Proof/Safety.lean ====
section
/-! DEFINITION. What claims are stated in: the invariant of 10_state.md R36, the table of what each command writes (R38), and what
a safe run is. -/

namespace Sys2Proof.Machine

/-- The active schema is valid (10_state.md R27): at most 16 fields, widths at least 1 with a sum in 1 to 16, 0 beyond. -/
def activeSchemaValid (s : State) : Bool :=
  validate s.NF.toNat (widthList s.W) && ((widthList s.W).drop s.NF.toNat).all (fun x => decide (x = 0))

/-- The invariants (a) to (d) of 10_state.md R36. -/
structure State.Inv (s : State) : Prop where
  /-- (a) `Ready` implies a valid active schema. -/
  schema_valid : s.STATE = .ready → activeSchemaValid s = true
  /-- (a) `Ready` implies `INDEX[31] = 1`. -/
  index_top : s.STATE = .ready → s.INDEX.getLsbD 31 = true
  /-- (b) the count saturates at 33. -/
  hexcnt_le : s.HEXCNT.toNat ≤ 33
  /-- (b) digits not yet seen are 0. -/
  hexbuf_rest : ∀ j, min s.HEXCNT.toNat 32 ≤ j → j < 32 → nib s.HEXBUF j = 0
  /-- (c) `ERR` holds a code of the table. -/
  err_le : s.ERR.toNat ≤ 6
  /-- (d) at most 16 fields. -/
  nf_le : s.NF.toNat ≤ 16

/-- The rows of the register list of 10_state.md R20, the configuration as R38 groups it, and the model's count of draws. -/
inductive Reg where
  | STATE | ERR | SCH_NF_IN | SCH_W_IN | KEY_IN
  /-- `NF` and `W`. -/
  | cfg
  /-- `PRE`, `INDEX` and `POST`. -/
  | keys
  | REC | PAY | CHK | BLK | HEXBUF | HEXCNT | TOK_OUT
  /-- The model's own count of draws taken (log entry 4). -/
  | draws
deriving DecidableEq, Repr

/-- Two states agree on a row. -/
def Reg.same (s t : State) : Reg → Prop
  | .STATE => t.STATE = s.STATE
  | .ERR => t.ERR = s.ERR
  | .SCH_NF_IN => t.SCH_NF_IN = s.SCH_NF_IN
  | .SCH_W_IN => t.SCH_W_IN = s.SCH_W_IN
  | .KEY_IN => t.KEY_IN = s.KEY_IN
  | .cfg => t.NF = s.NF ∧ t.W = s.W
  | .keys => t.PRE = s.PRE ∧ t.INDEX = s.INDEX ∧ t.POST = s.POST
  | .REC => t.REC = s.REC
  | .PAY => t.PAY = s.PAY
  | .CHK => t.CHK = s.CHK
  | .BLK => t.BLK = s.BLK
  | .HEXBUF => t.HEXBUF = s.HEXBUF
  | .HEXCNT => t.HEXCNT = s.HEXCNT
  | .TOK_OUT => t.TOK_OUT = s.TOK_OUT
  | .draws => t.draws = s.draws

/-- What a command may write, on success or on failure: the two right columns of the table of 10_state.md R38, and `ERR`, which
every command writes. -/
def mayWrite : Instr → List Reg
  | .nop => [.ERR]
  | .init => [.ERR, .cfg, .keys, .STATE]
  | .inite => [.ERR, .cfg, .keys, .STATE, .draws]
  | .validate => [.ERR]
  | .pack => [.ERR, .PAY]
  | .unpack => [.ERR, .REC]
  | .compute => [.ERR, .CHK]
  | .verify => [.ERR]
  | .mask => [.ERR, .BLK]
  | .unmask => [.ERR, .CHK, .PAY]
  | .format => [.ERR, .TOK_OUT]
  | .parse => [.ERR, .BLK]
  | .txclr => [.ERR, .HEXBUF, .HEXCNT]
  | .putc _ => [.ERR, .HEXBUF, .HEXCNT]
  | .encode => [.ERR, .PAY, .CHK, .BLK, .TOK_OUT]
  | .decode => [.ERR, .BLK, .CHK, .PAY, .REC]

/-- The unmapped word indices (20_memory.md R43, last line). -/
def unmappedIndex (idx : Index) : Bool :=
  let n := idx.toNat
  decide ((0x09 ≤ n ∧ n ≤ 0x0B) ∨ (0x11 ≤ n ∧ n ≤ 0x13) ∨ n = 0x1B ∨ n = 0x1D ∨ (0x31 ≤ n ∧ n ≤ 0x3F) ∨ 0x60 ≤ n)

/-- The word indices of host-writable registers: the rows marked RW of 20_memory.md R43. -/
def hostWritable (idx : Index) : Bool :=
  let n := idx.toNat
  decide ((0x04 ≤ n ∧ n ≤ 0x08) ∨ (0x0C ≤ n ∧ n ≤ 0x0F) ∨ n = 0x1C ∨ (0x1E ≤ n ∧ n ≤ 0x23) ∨ (0x40 ≤ n ∧ n ≤ 0x5F))

/-- The bits a location reads: the column "bits used" of 20_memory.md R43; none at the write-only `CMD` and at unmapped indices. -/
def readBits (idx : Index) : Word :=
  let n := idx.toNat
  if n = 0x00 ∨ unmappedIndex idx then 0
  else if n = 0x01 then 0x1
  else if n = 0x02 then 0xF
  else if n = 0x03 then 0x3F
  else if n = 0x08 ∨ n = 0x10 then 0x1F
  else 0xFFFFFFFF

/-- Which location a bus event needs a bridge to forward (20_memory.md R46); every other host event is served as it is. -/
def HostEvent.forwarded : HostEvent → Bool
  | .busRead addr bytes => (bridgeIndex addr bytes).isSome
  | .busWrite addr bytes _ => (bridgeIndex addr bytes).isSome
  | .read _ => true
  | .write _ _ => true
  | .reset => true

/-- A safe run of `k` steps: it ends in a next state, with no fault and no refusal on the way. -/
def SafeRun (k : Nat) (s : State) : Prop := ∃ t, Host.Core.run Sys2Proof.core k s = .next t

end Sys2Proof.Machine
end

