-- ==== Sys2Proof/Certificates/Slice0/Obligations.lean ====
section
/-! DEFINITION. The statements for the provers, from the numbered rules of spec/. `E <- v` of a rule is a field of a record update;
what an update does not name is unchanged. -/

open Sys2Proof Sys2Proof.Machine

/-! ### Encoding -/

/-- The words of 30_encoding.md R56 and R62 decode to their commands. -/
def Obligations.TableWordsDecode : Prop :=
  decode 0x00000000#32 = .command .nop ∧ decode 0x00000001#32 = .command .init ∧
  decode 0x00000002#32 = .command .inite ∧ decode 0x00000003#32 = .command .validate ∧
  decode 0x00000010#32 = .command .encode ∧ decode 0x00000011#32 = .command .decode ∧
  decode 0x00000020#32 = .command .pack ∧ decode 0x00000021#32 = .command .unpack ∧
  decode 0x00000022#32 = .command .compute ∧ decode 0x00000023#32 = .command .verify ∧
  decode 0x00000024#32 = .command .mask ∧ decode 0x00000025#32 = .command .unmask ∧
  decode 0x00000026#32 = .command .format ∧ decode 0x00000027#32 = .command .parse ∧
  decode 0x00000030#32 = .command .txclr ∧
  ∀ c : Byte, decode (0x00000031#32 ||| (c.setWidth 32 <<< 8)) = .command (.putc c)

/-- Decoding and encoding agree on every word and every command: each command has exactly one word (30_encoding.md R55, R56, R58). -/
def Obligations.DecodeIffEncode : Prop :=
  ∀ (w : Word) (i : Instr), decode w = .command i ↔ w = encode i

/-- 30_encoding.md R59, 60_exceptions.md R158: which words are illegal, and that one executes as `ERR <- 6` and nothing else. -/
def Obligations.IllegalWordSetsErrSix : Prop :=
  ∀ w : Word,
    ((∃ why, decode w = .illegal why) ↔
      (w.extractLsb' 16 16 ≠ 0#16
        ∨ w.extractLsb' 0 8 ∉ ([0x00, 0x01, 0x02, 0x03, 0x10, 0x11, 0x20, 0x21, 0x22, 0x23, 0x24, 0x25, 0x26, 0x27, 0x30, 0x31] : List Byte)
        ∨ (w.extractLsb' 8 8 ≠ 0#8 ∧ w.extractLsb' 0 8 ≠ 0x31#8))) ∧
    ((∃ why, decode w = .illegal why) →
      ∀ (s : State) (rest : List HostEvent), s.host = .write 0x00 w :: rest → step s = .next { s with host := rest, ERR := 6 })

/-- 30_encoding.md R58: decoding is total, a selected row's rule is executed, no row is illegal, and exactly 271 words are legal. -/
def Obligations.DecodingIsTotalWith271LegalWords : Prop :=
  (∀ (w : Word) (s : State),
    (∃ i, decode w = .command i ∧ portWrite 0x00 w s = exec i s)
      ∨ (∃ why, decode w = .illegal why ∧ portWrite 0x00 w s = .next { s with ERR := 6 })) ∧
  ∃ legal : List Word, legal.Nodup ∧ legal.length = 271 ∧ ∀ w : Word, w ∈ legal ↔ ∃ i, decode w = .command i

/-! ### Steps and the port -/

/-- When the host's next transaction writes a word to `CMD` that decodes to a command, a step is that command's meaning in the state
in which the transaction is no longer pending (20_memory.md R42(a), R50; 30_encoding.md R58; log entry 1). -/
def Obligations.StepRunsDecodedCommand : Prop :=
  ∀ (s : State) (w : Word) (i : Instr) (rest : List HostEvent),
    s.host = .write 0x00 w :: rest → decode w = .command i → step s = exec i { s with host := rest }

/-- 20_memory.md R41: a read changes no register (its value is observed, log entry 2); with no event pending a step changes nothing
(00_scope.md R18, log entry 3). -/
def Obligations.ReadsAndIdlingChangeNoRegister : Prop :=
  (∀ (s : State) (idx : Index) (rest : List HostEvent),
    s.host = .read idx :: rest → step s = .next { s with host := rest, seen := s.seen ++ [portRead s idx] }) ∧
  ∀ s : State, s.host = [] → step s = .next s

/-- The map of 20_memory.md R43 with the orders of R44 and R45: what each word index reads as. -/
def Obligations.PortReadFollowsTheMap : Prop :=
  ∀ s : State,
    portRead s 0x00 = 0 ∧
    portRead s 0x01 = (if s.STATE = .ready then 1 else 0) ∧
    portRead s 0x02 = s.ERR.setWidth 32 ∧
    portRead s 0x03 = s.HEXCNT.setWidth 32 ∧
    (portRead s 0x04 ++ portRead s 0x05 ++ portRead s 0x06 ++ portRead s 0x07 : BitVec 128) = s.KEY_IN ∧
    portRead s 0x08 = s.SCH_NF_IN.setWidth 32 ∧
    (∀ k : Fin 16, (portRead s (BitVec.ofNat 7 (0x0C + k.val / 4))).extractLsb' (24 - 8 * (k.val % 4)) 8 = s.SCH_W_IN[k]) ∧
    portRead s 0x10 = s.NF.setWidth 32 ∧
    (∀ k : Fin 16, (portRead s (BitVec.ofNat 7 (0x14 + k.val / 4))).extractLsb' (24 - 8 * (k.val % 4)) 8 = s.W[k]) ∧
    portRead s 0x18 = s.PRE ∧ portRead s 0x19 = s.INDEX ∧ portRead s 0x1A = s.POST ∧ portRead s 0x1C = s.CHK ∧
    (portRead s 0x1E ++ portRead s 0x1F : BitVec 64) = s.PAY ∧
    (portRead s 0x20 ++ portRead s 0x21 ++ portRead s 0x22 ++ portRead s 0x23 : BitVec 128) = s.BLK ∧
    (portRead s 0x24 ++ portRead s 0x25 ++ portRead s 0x26 ++ portRead s 0x27 : BitVec 128) = s.HEXBUF ∧
    (∀ j : Fin 36, (portRead s (BitVec.ofNat 7 (0x28 + j.val / 4))).extractLsb' (24 - 8 * (j.val % 4)) 8 = s.TOK_OUT[j]) ∧
    (∀ k : Fin 16, (portRead s (BitVec.ofNat 7 (0x40 + 2 * k.val)) ++ portRead s (BitVec.ofNat 7 (0x41 + 2 * k.val)) : BitVec 64)
      = s.REC[k]) ∧
    ∀ idx : Index, unmappedIndex idx = true → portRead s idx = 0

/-- 20_memory.md R42(b), (c) and R48: a write to a host-writable register is read back in the bits the register has, a write
elsewhere is ignored, and no other location, `ERR` included, changes. -/
def Obligations.DataWriteChangesOnlyItsLocation : Prop :=
  ∀ (s : State) (idx : Index) (v : Word), idx ≠ 0x00 →
    ∃ t : State, portWrite idx v s = .next t ∧
      portRead t idx = (if hostWritable idx then v &&& readBits idx else portRead s idx) ∧
      (∀ j : Index, j ≠ idx → portRead t j = portRead s j) ∧
      t.host = s.host ∧ t.seen = s.seen ∧ t.draws = s.draws

/-- 20_memory.md R48 and R41: reserved bits and unmapped indices read 0. -/
def Obligations.ReservedBitsReadZero : Prop :=
  ∀ (s : State) (idx : Index), portRead s idx &&& ~~~(readBits idx) = 0

/-- 30_encoding.md R63 over 20_memory.md R44: the pseudo-statements write a wide register whole, most significant word first. -/
def Obligations.WideWritesReplaceTheRegister : Prop :=
  ∀ s : State,
    (∀ v : Block, serveAll (Stmt.wr128 .keyIn v).expand s = .next { s with KEY_IN := v }) ∧
    (∀ v : Block, serveAll (Stmt.wr128 .blk v).expand s = .next { s with BLK := v }) ∧
    (∀ v : Dword, serveAll (Stmt.wr64 .pay v).expand s = .next { s with PAY := v }) ∧
    (∀ (k : Fin 16) (v : Dword), serveAll (Stmt.wr64 (.record k) v).expand s = .next { s with REC := s.REC.set k.val v k.isLt }) ∧
    ∀ ws : List Nat, (Stmt.schema ws).wellFormed = true →
      serveAll (Stmt.schema ws).expand s =
        .next { s with SCH_NF_IN := BitVec.ofNat 5 ws.length, SCH_W_IN := Vector.ofFn fun k => BitVec.ofNat 8 (ws.getD k.val 0) }

/-- 20_memory.md R50, R53: what a command does cannot depend on transactions that are still to come. -/
def Obligations.CommandsIgnorePendingTransactions : Prop :=
  ∀ (i : Instr) (s : State) (later : List HostEvent),
    ∃ t : State, exec i s = .next t ∧ exec i { s with host := later } = .next { t with host := later }

/-- 20_memory.md R50: a run serves the host's events one at a time in the order they are issued, each to its end. -/
def Obligations.RunServesEventsInOrder : Prop :=
  ∀ (es rest : List HostEvent) (s t : State),
    serveAll es { s with host := rest } = .next t →
    Host.Core.run Sys2Proof.core es.length { s with host := es ++ rest } = .next t

/-- 20_memory.md R46: a bridge forwards aligned 32-bit accesses at `byte_address / 4`; the model refuses a narrow or misaligned one. -/
def Obligations.BridgeForwardsAlignedWordsOnly : Prop :=
  (∀ (idx : Index) (v : Word) (s : State),
    serve (.busRead (4 * idx.toNat) 4) s = serve (.read idx) s ∧
    serve (.busWrite (4 * idx.toNat) 4 v) s = serve (.write idx v) s) ∧
  ∀ (addr bytes : Nat) (v : Word) (s : State), bytes ≠ 4 ∨ addr % 4 ≠ 0 →
    serve (.busRead addr bytes) s = .refused (.busAccessNotForwarded addr bytes) ∧
    serve (.busWrite addr bytes v) s = .refused (.busAccessNotForwarded addr bytes)

/-! ### Reset, invariants, whole-machine rules -/

/-- 10_state.md R35: after reset every register is zero. -/
def Obligations.ResetZeroesEveryRegister : Prop :=
  State.reset.STATE = .uninitialized ∧ State.reset.ERR = 0 ∧ State.reset.SCH_NF_IN = 0 ∧
  (∀ k : Fin 16, State.reset.SCH_W_IN[k] = 0) ∧ State.reset.KEY_IN = 0 ∧ State.reset.NF = 0 ∧
  (∀ k : Fin 16, State.reset.W[k] = 0) ∧ State.reset.PRE = 0 ∧ State.reset.INDEX = 0 ∧ State.reset.POST = 0 ∧
  (∀ k : Fin 16, State.reset.REC[k] = 0) ∧ State.reset.PAY = 0 ∧ State.reset.CHK = 0 ∧ State.reset.BLK = 0 ∧
  State.reset.HEXBUF = 0 ∧ State.reset.HEXCNT = 0 ∧ ∀ j : Fin 36, State.reset.TOK_OUT[j] = 0

/-- 70_reset_and_hazards.md R171: the reset input takes every register to its value of R35. That what is pending, observed and
drawn stays is the model's choice (log entry 16). -/
def Obligations.ResetInputTakesResetValues : Prop :=
  ∀ (s : State) (rest : List HostEvent), s.host = .reset :: rest →
    step s = .next { State.reset with host := rest, seen := s.seen, draws := s.draws }

/-- 10_state.md R36: the invariant holds after reset. -/
def Obligations.InvariantHoldsAtReset : Prop := State.reset.Inv

/-- 10_state.md R36(a) to (d): every step keeps the invariant, from every state that meets it. -/
def Obligations.EveryStepKeepsTheInvariant : Prop :=
  ∀ s t : State, s.Inv → step s = .next t → t.Inv

/-- 45_toplevel.md R130: the transitions of the state machine, and no others. -/
def Obligations.StateMachineTransitions : Prop :=
  State.reset.STATE = .uninitialized ∧
  (∀ (s : State) (rest : List HostEvent), s.host = .reset :: rest → ∃ t, step s = .next t ∧ t.STATE = .uninitialized) ∧
  (∀ (i : Instr) (s : State), i = .init ∨ i = .inite →
    (stagedValid s = true → ∃ t, exec i s = .next t ∧ t.STATE = .ready) ∧
    (stagedValid s = false → ∃ t, exec i s = .next t ∧
      t.STATE = (if Config.initFailState = .uninit then .uninitialized else s.STATE))) ∧
  (∀ (i : Instr) (s t : State), i ≠ .init → i ≠ .inite → exec i s = .next t → t.STATE = s.STATE) ∧
  ∀ (idx : Index) (v : Word) (s t : State), idx ≠ 0x00 → portWrite idx v s = .next t → t.STATE = s.STATE

/-- 10_state.md R36(e): the active configuration changes only by reset or by an INIT or INITE that succeeds, all five registers
together. -/
def Obligations.ConfigurationChangesOnlyInInit : Prop :=
  ∀ s t : State, step s = .next t →
    (t.NF = s.NF ∧ t.W = s.W ∧ t.PRE = s.PRE ∧ t.INDEX = s.INDEX ∧ t.POST = s.POST) ∨
    (∃ rest, s.host = .reset :: rest) ∨
    (stagedValid s = true ∧ t.STATE = .ready ∧
      (∃ w rest, (s.host = .write 0x00 w :: rest ∨ s.host = .busWrite 0 4 w :: rest) ∧
        ((decode w = .command .init ∧ t.PRE = s.KEY_IN.extractLsb' 96 32 ∧
            t.INDEX = s.KEY_IN.extractLsb' 64 32 ||| 0x80000000#32 ∧ t.POST = s.KEY_IN.extractLsb' 32 32) ∨
          (decode w = .command .inite ∧ t.PRE = (Config.draw s.draws).extractLsb' 96 32 ∧
            t.INDEX = (Config.draw s.draws).extractLsb' 64 32 ||| 0x80000000#32 ∧
            t.POST = (Config.draw s.draws).extractLsb' 32 32))) ∧
      t.NF = s.SCH_NF_IN ∧ ∀ k : Fin 16, t.W[k] = if k.val < s.SCH_NF_IN.toNat then s.SCH_W_IN[k] else 0)

/-- 10_state.md R38 and 00_scope.md R18: a command changes no register but those of its row, and on failure (INIT, INITE and DECODE
apart) none but `ERR`. The pending transactions and the observed values never change. -/
def Obligations.CommandsChangeOnlyTheirRegisters : Prop :=
  ∀ (i : Instr) (s t : State), exec i s = .next t →
    (∀ r : Reg, r ∉ mayWrite i → r.same s t) ∧
    (t.ERR ≠ 0 → i ≠ .init → i ≠ .inite → i ≠ .decode → ∀ r : Reg, r ≠ .ERR → r.same s t) ∧
    (∀ k : Fin 16, s.NF.toNat ≤ k.val → t.REC[k] = s.REC[k]) ∧
    t.host = s.host ∧ t.seen = s.seen

/-- 60_exceptions.md R156: the six commands that read the active configuration fail with 2 outside `Ready` before anything else, and
no other command reports 2. -/
def Obligations.UninitializedIsTestedFirst : Prop :=
  (∀ (i : Instr) (s : State), i ∈ [Instr.pack, .unpack, .compute, .verify, .encode, .decode] → s.STATE = .uninitialized →
    exec i s = .next { s with ERR := 2 }) ∧
  ∀ (i : Instr) (s : State), i ∉ [Instr.pack, .unpack, .compute, .verify, .encode, .decode] →
    ∃ t, exec i s = .next t ∧ t.ERR ≠ 2

/-- 60_exceptions.md R151, R153 to R157, R159: which command reports which code, and when; DECODE's tests in their order. -/
def Obligations.EachCodeHasItsCause : Prop :=
  ∀ (i : Instr) (s t : State), exec i s = .next t →
    (t.ERR = 1 ↔ i ∈ [Instr.init, .inite, .validate] ∧ stagedValid s = false) ∧
    (t.ERR = 2 ↔ i ∈ [Instr.pack, .unpack, .compute, .verify, .encode, .decode] ∧ s.STATE = .uninitialized) ∧
    (t.ERR = 3 ↔ (i = .parse ∨ i = .decode ∧ s.STATE = .ready) ∧ s.HEXCNT ≠ 32) ∧
    (t.ERR = 4 ↔
      (i = .unmask ∧ s.BLK.extractLsb' 0 32 ≠ s.BLK.extractLsb' 96 32 ^^^ (Config.whiten (s.BLK.extractLsb' 0 32)).extractLsb' 96 32) ∨
      (i = .decode ∧ s.STATE = .ready ∧ s.HEXCNT = 32 ∧
        s.HEXBUF.extractLsb' 0 32 ≠ s.HEXBUF.extractLsb' 96 32 ^^^ (Config.whiten (s.HEXBUF.extractLsb' 0 32)).extractLsb' 96 32)) ∧
    (t.ERR = 5 ↔
      (i = .verify ∧ s.STATE = .ready ∧ compute s.PRE s.INDEX s.POST s.PAY ≠ s.CHK) ∨
      (i = .decode ∧ s.STATE = .ready ∧ s.HEXCNT = 32 ∧
        s.HEXBUF.extractLsb' 0 32 = s.HEXBUF.extractLsb' 96 32 ^^^ (Config.whiten (s.HEXBUF.extractLsb' 0 32)).extractLsb' 96 32 ∧
        compute s.PRE s.INDEX s.POST (s.HEXBUF.extractLsb' 32 64 ^^^ (Config.whiten (s.HEXBUF.extractLsb' 0 32)).extractLsb' 32 64)
          ≠ s.HEXBUF.extractLsb' 0 32)) ∧
    t.ERR.toNat ≤ 5

/-- 60_exceptions.md R161, 70_reset_and_hazards.md R180: every command completes in every state; a step never faults and is refused
only for a bus access that a bridge must not forward. -/
def Obligations.NoStepFaults : Prop :=
  (∀ (i : Instr) (s : State), ∃ t, exec i s = .next t) ∧
  ∀ s : State, (∃ t, step s = .next t) ∨
    ∃ e rest, s.host = e :: rest ∧ e.forwarded = false ∧ ∃ r, step s = .refused r

/-- 60_exceptions.md R162: re-issuing a failed command with unchanged registers fails again with the same code, and changes nothing
more. That a failing INITE draws too, so that the model's own field `draws` counts one more, is the model's choice (log entry 4):
45_toplevel.md R133 says that it cannot be observed. -/
def Obligations.RetryFailsAlike : Prop :=
  ∀ (i : Instr) (s t : State), exec i s = .next t → t.ERR ≠ 0 →
    exec i t = .next (if i = .inite then { t with draws := t.draws + 1 } else t)

/-! ### Commands -/

/-- 45_toplevel.md R131. -/
def Obligations.NopClearsErr : Prop :=
  encode .nop = 0x00000000#32 ∧ ∀ s : State, exec .nop s = .next { s with ERR := 0 }

/-- 45_toplevel.md R132. -/
def Obligations.InitReplacesConfiguration : Prop :=
  encode .init = 0x00000001#32 ∧
  ∀ s : State,
    (validate s.SCH_NF_IN.toNat (widthList s.SCH_W_IN) = true →
      ∃ w : Vector Byte 16, (∀ k : Fin 16, w[k] = if k.val < s.SCH_NF_IN.toNat then s.SCH_W_IN[k] else 0) ∧
        exec .init s = .next { s with
          NF := s.SCH_NF_IN, W := w,
          PRE := s.KEY_IN.extractLsb' 96 32, INDEX := s.KEY_IN.extractLsb' 64 32 ||| 0x80000000#32,
          POST := s.KEY_IN.extractLsb' 32 32, STATE := .ready, ERR := 0 }) ∧
    (validate s.SCH_NF_IN.toNat (widthList s.SCH_W_IN) = false →
      exec .init s = .next { s with
        STATE := if Config.initFailState = .uninit then .uninitialized else s.STATE, ERR := 1 })

/-- 45_toplevel.md R133; that the draw is `Config.draw` at the counter, and that a failing INITE draws too, is the model's choice
(log entry 4). -/
def Obligations.IniteUsesTheDraw : Prop :=
  encode .inite = 0x00000002#32 ∧
  ∀ s : State,
    (validate s.SCH_NF_IN.toNat (widthList s.SCH_W_IN) = true →
      ∃ w : Vector Byte 16, (∀ k : Fin 16, w[k] = if k.val < s.SCH_NF_IN.toNat then s.SCH_W_IN[k] else 0) ∧
        exec .inite s = .next { s with
          NF := s.SCH_NF_IN, W := w,
          PRE := (Config.draw s.draws).extractLsb' 96 32,
          INDEX := (Config.draw s.draws).extractLsb' 64 32 ||| 0x80000000#32,
          POST := (Config.draw s.draws).extractLsb' 32 32, STATE := .ready, ERR := 0, draws := s.draws + 1 }) ∧
    (validate s.SCH_NF_IN.toNat (widthList s.SCH_W_IN) = false →
      exec .inite s = .next { s with
        STATE := if Config.initFailState = .uninit then .uninitialized else s.STATE, ERR := 1, draws := s.draws + 1 })

/-- 40_schemacodec.md R75 with the test of R70 written out: at most 16 fields, every used width at least 1, the sum in 1 to 16. -/
def Obligations.ValidateTestsTheStagedSchema : Prop :=
  encode .validate = 0x00000003#32 ∧
  ∀ s : State,
    let n := s.SCH_NF_IN.toNat
    let sum := ∑ k : Fin 16, if k.val < n then (s.SCH_W_IN[k]).toNat else 0
    exec .validate s = .next { s with
      ERR := if n ≤ 16 ∧ (∀ k : Fin 16, k.val < n → 1 ≤ (s.SCH_W_IN[k]).toNat) ∧ 1 ≤ sum ∧ sum ≤ 16 then 0 else 1 }

/-- 40_schemacodec.md R70: the clause `n <= 16` adds nothing, and a valid schema has 1 to 16 fields of width 1 to 16. -/
def Obligations.ValidSchemaBounds : Prop :=
  ∀ (n : Nat) (w : List Nat), n ≤ w.length →
    (validate n w = true ↔ (∀ x ∈ w.take n, 1 ≤ x) ∧ 1 ≤ (w.take n).sum ∧ (w.take n).sum ≤ 16) ∧
    (validate n w = true → 1 ≤ n ∧ n ≤ 16 ∧ ∀ x ∈ w.take n, x ≤ 16)

/-- 40_schemacodec.md R76 with R72: field `k` of the payload holds the low-order digits of `REC[k]`, the padding is 0. -/
def Obligations.PackLaysOutTheRecord : Prop :=
  encode .pack = 0x00000020#32 ∧
  ∀ s : State,
    (s.STATE = .uninitialized → exec .pack s = .next { s with ERR := 2 }) ∧
    (s.STATE = .ready → activeSchemaValid s = true →
      ∃ p : Dword, exec .pack s = .next { s with PAY := p, ERR := 0 } ∧
        (∀ k : Fin 16, k.val < s.NF.toNat →
          (p.toNat >>> (64 - 4 * (((widthList s.W).take k.val).sum + (s.W[k]).toNat))) % 16 ^ (s.W[k]).toNat
            = (s.REC[k]).toNat % 16 ^ (s.W[k]).toNat) ∧
        p.toNat % 2 ^ (64 - 4 * ((widthList s.W).take s.NF.toNat).sum) = 0)

/-- Derived from 40_schemacodec.md R77, R73, R71: each field of the schema is sliced out of the payload; the other registers keep
their values. R71 gives the offsets for a valid schema only; that the offsets are cut off at 0 in a `Ready` state with no valid
schema, which no run reaches, is the model's choice (log entry 10). -/
def Obligations.UnpackSlicesThePayload : Prop :=
  encode .unpack = 0x00000021#32 ∧
  ∀ s : State,
    (s.STATE = .uninitialized → exec .unpack s = .next { s with ERR := 2 }) ∧
    (s.STATE = .ready →
      ∃ r : Vector Dword 16, exec .unpack s = .next { s with REC := r, ERR := 0 } ∧
        ∀ k : Fin 16, r[k] =
          if k.val < s.NF.toNat then
            BitVec.ofNat 64
              ((s.PAY.toNat >>> (64 - 4 * (((widthList s.W).take k.val).sum + (s.W[k]).toNat))) % 16 ^ (s.W[k]).toNat)
          else s.REC[k])

/-- 40_schemacodec.md R74(a) to (c). -/
def Obligations.PackAndUnpackAreInverse : Prop :=
  ∀ (n : Nat) (w : List Nat), n ≤ w.length → validate n w = true →
    (∀ record : List Nat,
      unpack n w (pack n w record) = (List.range n).map fun k => record.getD k 0 % 16 ^ w.getD k 0) ∧
    (∀ pay : Dword,
      (pack n w (unpack n w pay)).toNat = pay.toNat - pay.toNat % 2 ^ (64 - 4 * (w.take n).sum)) ∧
    ∀ r r' : List Nat, (∀ k < n, r.getD k 0 % 16 ^ w.getD k 0 = r'.getD k 0 % 16 ^ w.getD k 0) → pack n w r = pack n w r'

/-- 41_keymaterial.md R82, R83: the slices of the secret, and the forced top bit of `index`. -/
def Obligations.DeriveSlicesTheSecret : Prop :=
  ∀ k : Block,
    (derive128 k).pre = k.extractLsb' 96 32 ∧
    (derive128 k).index = k.extractLsb' 64 32 ||| 0x80000000#32 ∧
    (derive128 k).index.getLsbD 31 = true ∧ (derive128 k).index.extractLsb' 0 31 = k.extractLsb' 64 31 ∧
    (derive128 k).post = k.extractLsb' 32 32

/-- 41_keymaterial.md R81: the three cases of `normalise`, for every digest. -/
def Obligations.NormaliseCases : Prop :=
  ∀ (digest : Text → Block) (secret : Text),
    (secret = [] → normaliseWith digest secret = .ephemeral) ∧
    (secret.length = 32 → (∀ b ∈ secret, (hexval b).isSome = true) →
      ∃ k : Block, normaliseWith digest secret = .key k ∧
        ∀ j : Nat, j < 32 → some (k.extractLsb' (124 - 4 * j) 4) = hexval (secret.getD j 0)) ∧
    (secret ≠ [] → (secret.length ≠ 32 ∨ ∃ b ∈ secret, hexval b = none) →
      normaliseWith digest secret = .key (digest secret))

/-- 42_checksumengine.md R99. -/
def Obligations.ComputeWritesTheChecksum : Prop :=
  encode .compute = 0x00000022#32 ∧
  ∀ s : State,
    (s.STATE = .uninitialized → exec .compute s = .next { s with ERR := 2 }) ∧
    (s.STATE = .ready → exec .compute s = .next { s with CHK := compute s.PRE s.INDEX s.POST s.PAY, ERR := 0 })

/-- 42_checksumengine.md R100. -/
def Obligations.VerifyComparesTheChecksum : Prop :=
  encode .verify = 0x00000023#32 ∧
  ∀ s : State,
    (s.STATE = .uninitialized → exec .verify s = .next { s with ERR := 2 }) ∧
    (s.STATE = .ready → compute s.PRE s.INDEX s.POST s.PAY = s.CHK → exec .verify s = .next { s with ERR := 0 }) ∧
    (s.STATE = .ready → compute s.PRE s.INDEX s.POST s.PAY ≠ s.CHK → exec .verify s = .next { s with ERR := 5 })

/-- 42_checksumengine.md R93: one iteration of the scan, bit by bit, and the order of the iterations. -/
def Obligations.ScanXorsTheWindowInPlace : Prop :=
  (∀ (index : Word) (working : Dword) (i j : Nat), i < 64 → j < 64 →
    (scanStep index working i).getMsbD j =
      (working.getMsbD j ^^ (working.getMsbD i && decide (i ≤ j) && decide (j < i + 32) && index.getMsbD (j - i)))) ∧
  ∀ (index : Word) (working : Dword), diffuse working index = (List.range 64).foldl (scanStep index) working

/-- 42_checksumengine.md R103: the window form and the integer form are equal bit for bit, for one iteration and for the pass. -/
def Obligations.IntegerFormEqualsWindowForm : Prop :=
  (∀ (index : Word) (working : Dword) (i : Nat), i < 64 → scanStepInt index working i = scanStep index working i) ∧
  ∀ (working : Dword) (index : Word), diffuseInt working index = diffuse working index

/-- 42_checksumengine.md R97: the closed form of the six steps, for every `index`. That the low 32 bits are kept is the spec's own
decision D22 (log entry 15). -/
def Obligations.ComputeClosedForm : Prop :=
  ∀ (pre index post : Word) (payload : Dword),
    compute pre index post payload = (diffuse (payload ^^^ (pre ++ 0#32)) index).setWidth 32 ^^^ post

/-- 42_checksumengine.md R101: with the top bit of `index` forced to 1 the pass clears the buffer and the checksum is `post`; so
COMPUTE writes `POST` in every state that meets the invariant. -/
def Obligations.ForcedTopBitCollapsesTheChecksum : Prop :=
  (∀ (working : Dword) (index : Word), index.getLsbD 31 = true → diffuse working index = 0) ∧
  (∀ (pre index post : Word) (payload : Dword), index.getLsbD 31 = true → compute pre index post payload = post) ∧
  ∀ s : State, s.Inv → s.STATE = .ready → exec .compute s = .next { s with CHK := s.POST, ERR := 0 }

/-- 43_ciphermixer.md R108 with R106: the three parts of the block. -/
def Obligations.MaskAssemblesTheBlock : Prop :=
  encode .mask = 0x00000024#32 ∧
  ∀ s : State, ∃ b : Block, exec .mask s = .next { s with BLK := b, ERR := 0 } ∧
    b.extractLsb' 96 32 = s.CHK ^^^ (Config.whiten s.CHK).extractLsb' 96 32 ∧
    b.extractLsb' 32 64 = s.PAY ^^^ (Config.whiten s.CHK).extractLsb' 32 64 ∧
    b.extractLsb' 0 32 = s.CHK

/-- 43_ciphermixer.md R109 with R107. -/
def Obligations.UnmaskChecksTheCopies : Prop :=
  encode .unmask = 0x00000025#32 ∧
  ∀ s : State,
    let c1 := s.BLK.extractLsb' 0 32
    let wh := Config.whiten c1
    let c2 := s.BLK.extractLsb' 96 32 ^^^ wh.extractLsb' 96 32
    (c1 ≠ c2 → exec .unmask s = .next { s with ERR := 4 }) ∧
    (c1 = c2 → exec .unmask s = .next { s with CHK := c1, PAY := s.BLK.extractLsb' 32 64 ^^^ wh.extractLsb' 32 64, ERR := 0 })

/-- 43_ciphermixer.md R110(a), (c), (d), (e), for every whitening function. -/
def Obligations.MaskAndUnmaskLaws : Prop :=
  ∀ wf : Word → Block,
    (∀ (c : Word) (p : Dword), unmask wf (mask wf c p) = some (c, p)) ∧
    (∀ (c c' : Word) (p p' : Dword), mask wf c p = mask wf c' p' → c = c' ∧ p = p') ∧
    (∀ (b : Block) (c : Word) (p : Dword), unmask wf b = some (c, p) ↔ b = mask wf c p) ∧
    (∀ (c : Word) (p p' : Dword), mask wf c p ^^^ mask wf c p' = (0#32 ++ (p ^^^ p') ++ 0#32 : BitVec 128))

/-- 44_formatter.md R121 with R115: hyphens at 8, 13, 18, 23, the 32 digits in order elsewhere, in lower case. -/
def Obligations.FormatWritesTheTokenText : Prop :=
  encode .format = 0x00000026#32 ∧
  ∀ s : State, ∃ v : Vector Byte 36, exec .format s = .next { s with TOK_OUT := v, ERR := 0 } ∧
    v[8] = 0x2D ∧ v[13] = 0x2D ∧ v[18] = 0x2D ∧ v[23] = 0x2D ∧
    ∀ t : Fin 36, t.val ≠ 8 → t.val ≠ 13 → t.val ≠ 18 → t.val ≠ 23 →
      let d := if t.val < 8 then t.val else if t.val < 13 then t.val - 1 else if t.val < 18 then t.val - 2
        else if t.val < 23 then t.val - 3 else t.val - 4
      let digit := (s.BLK.extractLsb' (124 - 4 * d) 4).toNat
      (v[t]).toNat = if digit < 10 then 0x30 + digit else 0x61 + digit - 10

/-- 44_formatter.md R117(a), (c), (d), (e): parsing a token text gives the block back; case and dropped characters do not matter. -/
def Obligations.ParseOfTokenText : Prop :=
  (∀ b : Block, parse (toToken b).toList = some b) ∧
  (∀ b b' : Block, toToken b = toToken b' → b = b') ∧
  (∀ (xs ys : Text) (c : Byte), hexval c = none → parse (xs ++ c :: ys) = parse (xs ++ ys)) ∧
  ∀ (xs ys : Text) (c : Byte), 0x41 ≤ c.toNat → c.toNat ≤ 0x46 → parse (xs ++ c :: ys) = parse (xs ++ (c + 0x20) :: ys)

/-- 44_formatter.md R122. -/
def Obligations.TxclrStartsAText : Prop :=
  encode .txclr = 0x00000030#32 ∧ ∀ s : State, exec .txclr s = .next { s with HEXBUF := 0, HEXCNT := 0, ERR := 0 }

/-- 00_scope.md R16, whose byte values the spec marks as general knowledge (log entry 17): the 22 hex characters, their values, and
the lowercase character of a digit. -/
def Obligations.HexCharactersAreThe22Bytes : Prop :=
  (∀ c : Byte, hexval c =
    if 0x30 ≤ c.toNat ∧ c.toNat ≤ 0x39 then some (BitVec.ofNat 4 (c.toNat - 0x30))
    else if (0x61 ≤ c.toNat ∧ c.toNat ≤ 0x66) ∨ (0x41 ≤ c.toNat ∧ c.toNat ≤ 0x46) then some (BitVec.ofNat 4 (c.toNat % 32 + 9))
    else none) ∧
  ((List.range 256).filter fun n => (hexval (BitVec.ofNat 8 n)).isSome).length = 22 ∧
  ∀ d : Nibble, hexval (hexchar d) = some d ∧ ¬ (0x41 ≤ (hexchar d).toNat ∧ (hexchar d).toNat ≤ 0x46)

/-- 44_formatter.md R123: a hex character is stored while fewer than 32 were seen and counted up to 33; any other byte is dropped. -/
def Obligations.PutcCollectsHexDigits : Prop :=
  (∀ c : Byte, encode (.putc c) = 0x00000031#32 ||| (c.setWidth 32 <<< 8)) ∧
  ∀ (c : Byte) (s : State),
    (hexval c = none → exec (.putc c) s = .next { s with ERR := 0 }) ∧
    ∀ d : Nibble, hexval c = some d →
      ∃ (b : Block) (n : BitVec 6), exec (.putc c) s = .next { s with HEXBUF := b, HEXCNT := n, ERR := 0 } ∧
        n.toNat = min (s.HEXCNT.toNat + 1) 33 ∧
        (s.HEXCNT.toNat < 32 → b.extractLsb' (124 - 4 * s.HEXCNT.toNat) 4 = d) ∧
        (∀ j : Nat, j < 32 → j ≠ s.HEXCNT.toNat → b.extractLsb' (124 - 4 * j) 4 = s.HEXBUF.extractLsb' (124 - 4 * j) 4)

/-- 44_formatter.md R124. -/
def Obligations.ParseNeeds32Digits : Prop :=
  encode .parse = 0x00000027#32 ∧
  ∀ s : State,
    (s.HEXCNT ≠ 32 → exec .parse s = .next { s with ERR := 3 }) ∧
    (s.HEXCNT = 32 → exec .parse s = .next { s with BLK := s.HEXBUF, ERR := 0 })

/-- 44_formatter.md R125: TXCLR, one PUTC per byte and PARSE compute the function `parse` of the whole text. -/
def Obligations.StreamingEqualsParse : Prop :=
  ∀ (s : State) (text : Text),
    ∃ t : State, serveAll (assemble [.cmd .txclr, .puts text]) s = .next t ∧
      t = { s with HEXBUF := t.HEXBUF, HEXCNT := t.HEXCNT, ERR := 0 } ∧
      t.HEXCNT.toNat = min (hexDigits text).length 33 ∧
      (∀ j : Nat, j < 32 → nib t.HEXBUF j = (hexDigits text).getD j 0) ∧
      (∀ b : Block, parse text = some b → exec .parse t = .next { t with BLK := b, ERR := 0 }) ∧
      (parse text = none → exec .parse t = .next { t with ERR := 3 })

/-- 45_toplevel.md R134: ENCODE's four stages, each over what the one before wrote; the same as pack, compute, mask, format. -/
def Obligations.EncodeRunsFourStages : Prop :=
  encode .encode = 0x00000010#32 ∧
  ∀ s : State,
    (s.STATE = .uninitialized → exec .encode s = .next { s with ERR := 2 }) ∧
    (s.STATE = .ready →
      ∃ (p : Dword) (c : Word) (b : Block),
        p = pack s.NF.toNat (widthList s.W) (recordList s.REC) ∧ c = compute s.PRE s.INDEX s.POST p ∧ b = mask Config.whiten c p ∧
        exec .encode s = .next { s with PAY := p, CHK := c, BLK := b, TOK_OUT := toToken b, ERR := 0 }) ∧
    (s.STATE = .ready →
      ∃ t1 t2 t3 t4 : State, exec .pack s = .next t1 ∧ exec .compute t1 = .next t2 ∧ exec .mask t2 = .next t3 ∧
        exec .format t3 = .next t4 ∧ t4.ERR = 0 ∧ exec .encode s = .next t4)

/-- 45_toplevel.md R136, first half: what ENCODE leaves in a state that meets the invariant. -/
def Obligations.EncodeProducesMaskedPost : Prop :=
  ∀ s : State, s.Inv → s.STATE = .ready →
    ∃ p : Dword, exec .pack s = .next { s with PAY := p, ERR := 0 } ∧
      exec .encode s = .next { s with
        PAY := p, CHK := s.POST, BLK := mask Config.whiten s.POST p, TOK_OUT := toToken (mask Config.whiten s.POST p), ERR := 0 }

/-- Derived from 45_toplevel.md R135: DECODE's stages, their errors in the order tested, what each failure leaves, and that it is
the sequence parse, unmask, verify, unpack, stopping at the first failure. The offsets in the clause on success are R71's for a
valid schema; that they are cut off at 0 in a `Ready` state with no valid schema, which no run reaches, is the model's choice (log
entry 10). -/
def Obligations.DecodeCommitsStageByStage : Prop :=
  encode .decode = 0x00000011#32 ∧
  ∀ s : State,
    let c1 := s.HEXBUF.extractLsb' 0 32
    let wh := Config.whiten c1
    let c2 := s.HEXBUF.extractLsb' 96 32 ^^^ wh.extractLsb' 96 32
    let p := s.HEXBUF.extractLsb' 32 64 ^^^ wh.extractLsb' 32 64
    (s.STATE = .uninitialized → exec .decode s = .next { s with ERR := 2 }) ∧
    (s.STATE = .ready → s.HEXCNT ≠ 32 → exec .decode s = .next { s with ERR := 3 }) ∧
    (s.STATE = .ready → s.HEXCNT = 32 → c1 ≠ c2 → exec .decode s = .next { s with BLK := s.HEXBUF, ERR := 4 }) ∧
    (s.STATE = .ready → s.HEXCNT = 32 → c1 = c2 → compute s.PRE s.INDEX s.POST p ≠ c1 →
      exec .decode s = .next { s with BLK := s.HEXBUF, CHK := c1, PAY := p, ERR := 5 }) ∧
    (s.STATE = .ready → s.HEXCNT = 32 → c1 = c2 → compute s.PRE s.INDEX s.POST p = c1 →
      ∃ r : Vector Dword 16,
        exec .decode s = .next { s with BLK := s.HEXBUF, CHK := c1, PAY := p, REC := r, ERR := 0 } ∧
        ∀ k : Fin 16, r[k] =
          if k.val < s.NF.toNat then
            BitVec.ofNat 64
              ((p.toNat >>> (64 - 4 * (((widthList s.W).take k.val).sum + (s.W[k]).toNat))) % 16 ^ (s.W[k]).toNat)
          else s.REC[k]) ∧
    (s.STATE = .ready →
      ∃ t1 t2 t3 t4 : State, exec .parse s = .next t1 ∧ exec .unmask t1 = .next t2 ∧ exec .verify t2 = .next t3 ∧
        exec .unpack t3 = .next t4 ∧
        exec .decode s = .next (if t1.ERR ≠ 0 then t1 else if t2.ERR ≠ 0 then t2 else if t3.ERR ≠ 0 then t3 else t4))

/-- 45_toplevel.md R136, second half: the blocks a configured SCC accepts are those with the right head and tail, and for each the
payload is unmasked. -/
def Obligations.DecodeAcceptsExactlyMaskedPost : Prop :=
  ∀ s t : State, s.Inv → s.STATE = .ready → exec .decode s = .next t →
    (t.ERR = 0 ↔ s.HEXCNT = 32 ∧ ∃ p : Dword, s.HEXBUF = mask Config.whiten s.POST p) ∧
    (∀ p : Dword, t.ERR = 0 → s.HEXBUF = mask Config.whiten s.POST p → t.PAY = p)

/-- 45_toplevel.md R138(a), (b): the text ENCODE makes, entered with TXCLR and PUTC and decoded, gives every field's value back,
reduced to its width; the other record registers are unchanged. -/
def Obligations.TextRoundTrip : Prop :=
  ∀ s : State, s.Inv → s.STATE = .ready →
    ∃ t u : State, exec .encode s = .next t ∧ serveAll (decodeScript t.TOK_OUT.toList) t = .next u ∧ u.ERR = 0 ∧
      ∀ k : Fin 16, (u.REC[k]).toNat =
        if k.val < s.NF.toNat then (s.REC[k]).toNat % 16 ^ (s.W[k]).toNat else (s.REC[k]).toNat

/-- 45_toplevel.md R138(d), 42_checksumengine.md R102(b), (c): of a block that DECODE accepts, a changed head or tail is always
detected and a changed payload never is. -/
def Obligations.TamperDetectionByPart : Prop :=
  ∀ (s : State) (p : Dword) (b : Block), s.Inv → s.STATE = .ready → s.HEXCNT = 32 → s.HEXBUF = b →
    let good := mask Config.whiten s.POST p
    (b.extractLsb' 0 96 = good.extractLsb' 0 96 → b ≠ good → exec .decode s = .next { s with BLK := b, ERR := 4 }) ∧
    (b.extractLsb' 0 32 ≠ good.extractLsb' 0 32 → ∃ t, exec .decode s = .next t ∧ (t.ERR = 4 ∨ t.ERR = 5) ∧ t.REC = s.REC) ∧
    (b.extractLsb' 96 32 = good.extractLsb' 96 32 → b.extractLsb' 0 32 = good.extractLsb' 0 32 →
      ∃ t, exec .decode s = .next t ∧ t.ERR = 0 ∧ t.PAY ^^^ p = b.extractLsb' 32 64 ^^^ good.extractLsb' 32 64)

/-! ### The driver -/

/-- 45_toplevel.md R140: duplicate names are refused without touching the hardware; otherwise the verdict is that of the schema as
given, and success makes the hardware `Ready` with that schema. -/
def Obligations.DriverInitializeVerdict : Prop :=
  ∀ (digest : Text → Block) (d : Driver) (schema : SchemaArg) (key : Text),
    (¬ (schema.map Prod.fst).Nodup → Driver.initializeWith digest d schema key = .next (false, d)) ∧
    ((schema.map Prod.fst).Nodup →
      ∃ (good : Bool) (d' : Driver), Driver.initializeWith digest d schema key = .next (good, d') ∧
        (good = true ↔ ∃ ws : List Nat, schema.map Prod.snd = ws.map (fun w : Nat => WidthArg.int (w : Int)) ∧
          (∀ w ∈ ws, 1 ≤ w) ∧ 1 ≤ ws.sum ∧ ws.sum ≤ 16) ∧
        (good = true → d'.names = schema.map Prod.fst ∧ d'.hw.STATE = .ready ∧ d'.hw.NF.toNat = schema.length ∧
          ∀ k : Fin 16, (d'.hw.W[k]).toNat = ((schema.map fun f => clampWidth f.2).getD k.val 0)) ∧
        (good = false → d'.names = d.names ∧ d'.hw.ERR = 1))

/-- 45_toplevel.md R138(a), R140 to R142: after a successful Initialize, Encode gives a text of 36 characters and Decode of it gives
the record back when every value fits its declared width. -/
def Obligations.DriverRoundTrip : Prop :=
  ∀ (digest : Text → Block) (d d1 : Driver) (schema : SchemaArg) (key : Text) (record : Record),
    Driver.initializeWith digest d schema key = .next (true, d1) →
    (∀ f ∈ schema, (record.lookup f.1).getD 0 < 16 ^ clampWidth f.2) →
    ∃ (text : Text) (d2 d3 : Driver), Driver.encode d1 record = .next (some text, d2) ∧ text.length = 36 ∧
      Driver.decode d2 text = .next (.inr (schema.map fun f => (f.1, (record.lookup f.1).getD 0)), d3)

/-! ### The notation -/

/-- Derived from 30_encoding.md R62, R63 over 20_memory.md R44, R45: a reading statement observes its 1, 2, 4 or 9 words and changes
nothing, and the values of those words joined are the register it names. That a value read goes to the list of observed values is
the model's choice (log entry 2). -/
def Obligations.ReadStatementsJoinTheRegister : Prop :=
  ∀ (s : State) (st : Stmt) (v : ReadValue),
    ((∃ l i, st = .rd l ∧ l.idx = some i ∧ v = .word (portRead s i)) ∨ (∃ i, st = .rdIdx i ∧ v = .word (portRead s i)) ∨
      (st = .rd64 .pay ∧ v = .dword s.PAY) ∨ (∃ k : Fin 16, st = .rd64 (.record k) ∧ v = .dword s.REC[k]) ∨
      (st = .rd128 .keyIn ∧ v = .block s.KEY_IN) ∨ (st = .rd128 .blk ∧ v = .block s.BLK) ∨
      (st = .rd128 .hexbuf ∧ v = .block s.HEXBUF) ∨ (st = .rdtext ∧ v = .text s.TOK_OUT.toList)) →
    ∃ ws : List Word, serveAll st.expand s = .next { s with seen := s.seen ++ ws } ∧
      st.reads = ws.length ∧ st.value ws = some v ∧ programValues [st] ws = [v]

/-- Derived from 30_encoding.md R63: an `expect` holds exactly when the value read is the value claimed; the claims of a program
are those of its parts, each held against what the part itself reads. That the claims are no part of the machine, and are held
against the list of observed values, is the model's choice (log entries 2 and 18). -/
def Obligations.ExpectHoldsExactlyOnTheValueRead : Prop :=
  (∀ s : State,
    (∀ (l : Loc) (i : Index) (v : Word), l.idx = some i → (programHolds [.expect l v] s = true ↔ portRead s i = v)) ∧
    (∀ (i : Index) (v : Word), programHolds [.expectIdx i v] s = true ↔ portRead s i = v) ∧
    (∀ v : Dword, programHolds [.expect64 .pay v] s = true ↔ s.PAY = v) ∧
    (∀ (k : Fin 16) (v : Dword), programHolds [.expect64 (.record k) v] s = true ↔ s.REC[k] = v) ∧
    (∀ v : Block, programHolds [.expect128 .keyIn v] s = true ↔ s.KEY_IN = v) ∧
    (∀ v : Block, programHolds [.expect128 .blk v] s = true ↔ s.BLK = v) ∧
    (∀ v : Block, programHolds [.expect128 .hexbuf v] s = true ↔ s.HEXBUF = v) ∧
    ∀ v : Text, programHolds [.expectText v] s = true ↔ s.TOK_OUT.toList = v) ∧
  ∀ (p q : List Stmt) (s t : State), serveAll (assemble p) s = .next t →
    (programHolds (p ++ q) s = true ↔ programHolds p s = true ∧ programHolds q t = true)
end

