-- ==== Sys2Proof/Laws/State.lean ====
section
/-! SUPPORT. One lemma per field per update of State: the updated field holds the new value, every other field keeps its own. -/

namespace Sys2Proof.Machine.State

variable (s : State)

/-! ### setSTATE -/

@[simp] theorem setSTATE_STATE (v : Mode) : (s.setSTATE v).STATE = v := rfl
@[simp] theorem setSTATE_ERR (v : Mode) : (s.setSTATE v).ERR = s.ERR := rfl
@[simp] theorem setSTATE_SCH_NF_IN (v : Mode) : (s.setSTATE v).SCH_NF_IN = s.SCH_NF_IN := rfl
@[simp] theorem setSTATE_SCH_W_IN (v : Mode) : (s.setSTATE v).SCH_W_IN = s.SCH_W_IN := rfl
@[simp] theorem setSTATE_KEY_IN (v : Mode) : (s.setSTATE v).KEY_IN = s.KEY_IN := rfl
@[simp] theorem setSTATE_NF (v : Mode) : (s.setSTATE v).NF = s.NF := rfl
@[simp] theorem setSTATE_W (v : Mode) : (s.setSTATE v).W = s.W := rfl
@[simp] theorem setSTATE_PRE (v : Mode) : (s.setSTATE v).PRE = s.PRE := rfl
@[simp] theorem setSTATE_INDEX (v : Mode) : (s.setSTATE v).INDEX = s.INDEX := rfl
@[simp] theorem setSTATE_POST (v : Mode) : (s.setSTATE v).POST = s.POST := rfl
@[simp] theorem setSTATE_REC (v : Mode) : (s.setSTATE v).REC = s.REC := rfl
@[simp] theorem setSTATE_PAY (v : Mode) : (s.setSTATE v).PAY = s.PAY := rfl
@[simp] theorem setSTATE_CHK (v : Mode) : (s.setSTATE v).CHK = s.CHK := rfl
@[simp] theorem setSTATE_BLK (v : Mode) : (s.setSTATE v).BLK = s.BLK := rfl
@[simp] theorem setSTATE_HEXBUF (v : Mode) : (s.setSTATE v).HEXBUF = s.HEXBUF := rfl
@[simp] theorem setSTATE_HEXCNT (v : Mode) : (s.setSTATE v).HEXCNT = s.HEXCNT := rfl
@[simp] theorem setSTATE_TOK_OUT (v : Mode) : (s.setSTATE v).TOK_OUT = s.TOK_OUT := rfl
@[simp] theorem setSTATE_host (v : Mode) : (s.setSTATE v).host = s.host := rfl
@[simp] theorem setSTATE_seen (v : Mode) : (s.setSTATE v).seen = s.seen := rfl
@[simp] theorem setSTATE_draws (v : Mode) : (s.setSTATE v).draws = s.draws := rfl

/-! ### setERR -/

@[simp] theorem setERR_STATE (v : BitVec 4) : (s.setERR v).STATE = s.STATE := rfl
@[simp] theorem setERR_ERR (v : BitVec 4) : (s.setERR v).ERR = v := rfl
@[simp] theorem setERR_SCH_NF_IN (v : BitVec 4) : (s.setERR v).SCH_NF_IN = s.SCH_NF_IN := rfl
@[simp] theorem setERR_SCH_W_IN (v : BitVec 4) : (s.setERR v).SCH_W_IN = s.SCH_W_IN := rfl
@[simp] theorem setERR_KEY_IN (v : BitVec 4) : (s.setERR v).KEY_IN = s.KEY_IN := rfl
@[simp] theorem setERR_NF (v : BitVec 4) : (s.setERR v).NF = s.NF := rfl
@[simp] theorem setERR_W (v : BitVec 4) : (s.setERR v).W = s.W := rfl
@[simp] theorem setERR_PRE (v : BitVec 4) : (s.setERR v).PRE = s.PRE := rfl
@[simp] theorem setERR_INDEX (v : BitVec 4) : (s.setERR v).INDEX = s.INDEX := rfl
@[simp] theorem setERR_POST (v : BitVec 4) : (s.setERR v).POST = s.POST := rfl
@[simp] theorem setERR_REC (v : BitVec 4) : (s.setERR v).REC = s.REC := rfl
@[simp] theorem setERR_PAY (v : BitVec 4) : (s.setERR v).PAY = s.PAY := rfl
@[simp] theorem setERR_CHK (v : BitVec 4) : (s.setERR v).CHK = s.CHK := rfl
@[simp] theorem setERR_BLK (v : BitVec 4) : (s.setERR v).BLK = s.BLK := rfl
@[simp] theorem setERR_HEXBUF (v : BitVec 4) : (s.setERR v).HEXBUF = s.HEXBUF := rfl
@[simp] theorem setERR_HEXCNT (v : BitVec 4) : (s.setERR v).HEXCNT = s.HEXCNT := rfl
@[simp] theorem setERR_TOK_OUT (v : BitVec 4) : (s.setERR v).TOK_OUT = s.TOK_OUT := rfl
@[simp] theorem setERR_host (v : BitVec 4) : (s.setERR v).host = s.host := rfl
@[simp] theorem setERR_seen (v : BitVec 4) : (s.setERR v).seen = s.seen := rfl
@[simp] theorem setERR_draws (v : BitVec 4) : (s.setERR v).draws = s.draws := rfl

/-! ### setSCH_NF_IN -/

@[simp] theorem setSCH_NF_IN_STATE (v : BitVec 5) : (s.setSCH_NF_IN v).STATE = s.STATE := rfl
@[simp] theorem setSCH_NF_IN_ERR (v : BitVec 5) : (s.setSCH_NF_IN v).ERR = s.ERR := rfl
@[simp] theorem setSCH_NF_IN_SCH_NF_IN (v : BitVec 5) : (s.setSCH_NF_IN v).SCH_NF_IN = v := rfl
@[simp] theorem setSCH_NF_IN_SCH_W_IN (v : BitVec 5) : (s.setSCH_NF_IN v).SCH_W_IN = s.SCH_W_IN := rfl
@[simp] theorem setSCH_NF_IN_KEY_IN (v : BitVec 5) : (s.setSCH_NF_IN v).KEY_IN = s.KEY_IN := rfl
@[simp] theorem setSCH_NF_IN_NF (v : BitVec 5) : (s.setSCH_NF_IN v).NF = s.NF := rfl
@[simp] theorem setSCH_NF_IN_W (v : BitVec 5) : (s.setSCH_NF_IN v).W = s.W := rfl
@[simp] theorem setSCH_NF_IN_PRE (v : BitVec 5) : (s.setSCH_NF_IN v).PRE = s.PRE := rfl
@[simp] theorem setSCH_NF_IN_INDEX (v : BitVec 5) : (s.setSCH_NF_IN v).INDEX = s.INDEX := rfl
@[simp] theorem setSCH_NF_IN_POST (v : BitVec 5) : (s.setSCH_NF_IN v).POST = s.POST := rfl
@[simp] theorem setSCH_NF_IN_REC (v : BitVec 5) : (s.setSCH_NF_IN v).REC = s.REC := rfl
@[simp] theorem setSCH_NF_IN_PAY (v : BitVec 5) : (s.setSCH_NF_IN v).PAY = s.PAY := rfl
@[simp] theorem setSCH_NF_IN_CHK (v : BitVec 5) : (s.setSCH_NF_IN v).CHK = s.CHK := rfl
@[simp] theorem setSCH_NF_IN_BLK (v : BitVec 5) : (s.setSCH_NF_IN v).BLK = s.BLK := rfl
@[simp] theorem setSCH_NF_IN_HEXBUF (v : BitVec 5) : (s.setSCH_NF_IN v).HEXBUF = s.HEXBUF := rfl
@[simp] theorem setSCH_NF_IN_HEXCNT (v : BitVec 5) : (s.setSCH_NF_IN v).HEXCNT = s.HEXCNT := rfl
@[simp] theorem setSCH_NF_IN_TOK_OUT (v : BitVec 5) : (s.setSCH_NF_IN v).TOK_OUT = s.TOK_OUT := rfl
@[simp] theorem setSCH_NF_IN_host (v : BitVec 5) : (s.setSCH_NF_IN v).host = s.host := rfl
@[simp] theorem setSCH_NF_IN_seen (v : BitVec 5) : (s.setSCH_NF_IN v).seen = s.seen := rfl
@[simp] theorem setSCH_NF_IN_draws (v : BitVec 5) : (s.setSCH_NF_IN v).draws = s.draws := rfl

/-! ### setSCH_W_IN -/

@[simp] theorem setSCH_W_IN_STATE (v : Vector Byte 16) : (s.setSCH_W_IN v).STATE = s.STATE := rfl
@[simp] theorem setSCH_W_IN_ERR (v : Vector Byte 16) : (s.setSCH_W_IN v).ERR = s.ERR := rfl
@[simp] theorem setSCH_W_IN_SCH_NF_IN (v : Vector Byte 16) : (s.setSCH_W_IN v).SCH_NF_IN = s.SCH_NF_IN := rfl
@[simp] theorem setSCH_W_IN_SCH_W_IN (v : Vector Byte 16) : (s.setSCH_W_IN v).SCH_W_IN = v := rfl
@[simp] theorem setSCH_W_IN_KEY_IN (v : Vector Byte 16) : (s.setSCH_W_IN v).KEY_IN = s.KEY_IN := rfl
@[simp] theorem setSCH_W_IN_NF (v : Vector Byte 16) : (s.setSCH_W_IN v).NF = s.NF := rfl
@[simp] theorem setSCH_W_IN_W (v : Vector Byte 16) : (s.setSCH_W_IN v).W = s.W := rfl
@[simp] theorem setSCH_W_IN_PRE (v : Vector Byte 16) : (s.setSCH_W_IN v).PRE = s.PRE := rfl
@[simp] theorem setSCH_W_IN_INDEX (v : Vector Byte 16) : (s.setSCH_W_IN v).INDEX = s.INDEX := rfl
@[simp] theorem setSCH_W_IN_POST (v : Vector Byte 16) : (s.setSCH_W_IN v).POST = s.POST := rfl
@[simp] theorem setSCH_W_IN_REC (v : Vector Byte 16) : (s.setSCH_W_IN v).REC = s.REC := rfl
@[simp] theorem setSCH_W_IN_PAY (v : Vector Byte 16) : (s.setSCH_W_IN v).PAY = s.PAY := rfl
@[simp] theorem setSCH_W_IN_CHK (v : Vector Byte 16) : (s.setSCH_W_IN v).CHK = s.CHK := rfl
@[simp] theorem setSCH_W_IN_BLK (v : Vector Byte 16) : (s.setSCH_W_IN v).BLK = s.BLK := rfl
@[simp] theorem setSCH_W_IN_HEXBUF (v : Vector Byte 16) : (s.setSCH_W_IN v).HEXBUF = s.HEXBUF := rfl
@[simp] theorem setSCH_W_IN_HEXCNT (v : Vector Byte 16) : (s.setSCH_W_IN v).HEXCNT = s.HEXCNT := rfl
@[simp] theorem setSCH_W_IN_TOK_OUT (v : Vector Byte 16) : (s.setSCH_W_IN v).TOK_OUT = s.TOK_OUT := rfl
@[simp] theorem setSCH_W_IN_host (v : Vector Byte 16) : (s.setSCH_W_IN v).host = s.host := rfl
@[simp] theorem setSCH_W_IN_seen (v : Vector Byte 16) : (s.setSCH_W_IN v).seen = s.seen := rfl
@[simp] theorem setSCH_W_IN_draws (v : Vector Byte 16) : (s.setSCH_W_IN v).draws = s.draws := rfl

/-! ### setKEY_IN -/

@[simp] theorem setKEY_IN_STATE (v : Block) : (s.setKEY_IN v).STATE = s.STATE := rfl
@[simp] theorem setKEY_IN_ERR (v : Block) : (s.setKEY_IN v).ERR = s.ERR := rfl
@[simp] theorem setKEY_IN_SCH_NF_IN (v : Block) : (s.setKEY_IN v).SCH_NF_IN = s.SCH_NF_IN := rfl
@[simp] theorem setKEY_IN_SCH_W_IN (v : Block) : (s.setKEY_IN v).SCH_W_IN = s.SCH_W_IN := rfl
@[simp] theorem setKEY_IN_KEY_IN (v : Block) : (s.setKEY_IN v).KEY_IN = v := rfl
@[simp] theorem setKEY_IN_NF (v : Block) : (s.setKEY_IN v).NF = s.NF := rfl
@[simp] theorem setKEY_IN_W (v : Block) : (s.setKEY_IN v).W = s.W := rfl
@[simp] theorem setKEY_IN_PRE (v : Block) : (s.setKEY_IN v).PRE = s.PRE := rfl
@[simp] theorem setKEY_IN_INDEX (v : Block) : (s.setKEY_IN v).INDEX = s.INDEX := rfl
@[simp] theorem setKEY_IN_POST (v : Block) : (s.setKEY_IN v).POST = s.POST := rfl
@[simp] theorem setKEY_IN_REC (v : Block) : (s.setKEY_IN v).REC = s.REC := rfl
@[simp] theorem setKEY_IN_PAY (v : Block) : (s.setKEY_IN v).PAY = s.PAY := rfl
@[simp] theorem setKEY_IN_CHK (v : Block) : (s.setKEY_IN v).CHK = s.CHK := rfl
@[simp] theorem setKEY_IN_BLK (v : Block) : (s.setKEY_IN v).BLK = s.BLK := rfl
@[simp] theorem setKEY_IN_HEXBUF (v : Block) : (s.setKEY_IN v).HEXBUF = s.HEXBUF := rfl
@[simp] theorem setKEY_IN_HEXCNT (v : Block) : (s.setKEY_IN v).HEXCNT = s.HEXCNT := rfl
@[simp] theorem setKEY_IN_TOK_OUT (v : Block) : (s.setKEY_IN v).TOK_OUT = s.TOK_OUT := rfl
@[simp] theorem setKEY_IN_host (v : Block) : (s.setKEY_IN v).host = s.host := rfl
@[simp] theorem setKEY_IN_seen (v : Block) : (s.setKEY_IN v).seen = s.seen := rfl
@[simp] theorem setKEY_IN_draws (v : Block) : (s.setKEY_IN v).draws = s.draws := rfl

/-! ### setREC -/

@[simp] theorem setREC_STATE (v : Vector Dword 16) : (s.setREC v).STATE = s.STATE := rfl
@[simp] theorem setREC_ERR (v : Vector Dword 16) : (s.setREC v).ERR = s.ERR := rfl
@[simp] theorem setREC_SCH_NF_IN (v : Vector Dword 16) : (s.setREC v).SCH_NF_IN = s.SCH_NF_IN := rfl
@[simp] theorem setREC_SCH_W_IN (v : Vector Dword 16) : (s.setREC v).SCH_W_IN = s.SCH_W_IN := rfl
@[simp] theorem setREC_KEY_IN (v : Vector Dword 16) : (s.setREC v).KEY_IN = s.KEY_IN := rfl
@[simp] theorem setREC_NF (v : Vector Dword 16) : (s.setREC v).NF = s.NF := rfl
@[simp] theorem setREC_W (v : Vector Dword 16) : (s.setREC v).W = s.W := rfl
@[simp] theorem setREC_PRE (v : Vector Dword 16) : (s.setREC v).PRE = s.PRE := rfl
@[simp] theorem setREC_INDEX (v : Vector Dword 16) : (s.setREC v).INDEX = s.INDEX := rfl
@[simp] theorem setREC_POST (v : Vector Dword 16) : (s.setREC v).POST = s.POST := rfl
@[simp] theorem setREC_REC (v : Vector Dword 16) : (s.setREC v).REC = v := rfl
@[simp] theorem setREC_PAY (v : Vector Dword 16) : (s.setREC v).PAY = s.PAY := rfl
@[simp] theorem setREC_CHK (v : Vector Dword 16) : (s.setREC v).CHK = s.CHK := rfl
@[simp] theorem setREC_BLK (v : Vector Dword 16) : (s.setREC v).BLK = s.BLK := rfl
@[simp] theorem setREC_HEXBUF (v : Vector Dword 16) : (s.setREC v).HEXBUF = s.HEXBUF := rfl
@[simp] theorem setREC_HEXCNT (v : Vector Dword 16) : (s.setREC v).HEXCNT = s.HEXCNT := rfl
@[simp] theorem setREC_TOK_OUT (v : Vector Dword 16) : (s.setREC v).TOK_OUT = s.TOK_OUT := rfl
@[simp] theorem setREC_host (v : Vector Dword 16) : (s.setREC v).host = s.host := rfl
@[simp] theorem setREC_seen (v : Vector Dword 16) : (s.setREC v).seen = s.seen := rfl
@[simp] theorem setREC_draws (v : Vector Dword 16) : (s.setREC v).draws = s.draws := rfl

/-! ### setPAY -/

@[simp] theorem setPAY_STATE (v : Dword) : (s.setPAY v).STATE = s.STATE := rfl
@[simp] theorem setPAY_ERR (v : Dword) : (s.setPAY v).ERR = s.ERR := rfl
@[simp] theorem setPAY_SCH_NF_IN (v : Dword) : (s.setPAY v).SCH_NF_IN = s.SCH_NF_IN := rfl
@[simp] theorem setPAY_SCH_W_IN (v : Dword) : (s.setPAY v).SCH_W_IN = s.SCH_W_IN := rfl
@[simp] theorem setPAY_KEY_IN (v : Dword) : (s.setPAY v).KEY_IN = s.KEY_IN := rfl
@[simp] theorem setPAY_NF (v : Dword) : (s.setPAY v).NF = s.NF := rfl
@[simp] theorem setPAY_W (v : Dword) : (s.setPAY v).W = s.W := rfl
@[simp] theorem setPAY_PRE (v : Dword) : (s.setPAY v).PRE = s.PRE := rfl
@[simp] theorem setPAY_INDEX (v : Dword) : (s.setPAY v).INDEX = s.INDEX := rfl
@[simp] theorem setPAY_POST (v : Dword) : (s.setPAY v).POST = s.POST := rfl
@[simp] theorem setPAY_REC (v : Dword) : (s.setPAY v).REC = s.REC := rfl
@[simp] theorem setPAY_PAY (v : Dword) : (s.setPAY v).PAY = v := rfl
@[simp] theorem setPAY_CHK (v : Dword) : (s.setPAY v).CHK = s.CHK := rfl
@[simp] theorem setPAY_BLK (v : Dword) : (s.setPAY v).BLK = s.BLK := rfl
@[simp] theorem setPAY_HEXBUF (v : Dword) : (s.setPAY v).HEXBUF = s.HEXBUF := rfl
@[simp] theorem setPAY_HEXCNT (v : Dword) : (s.setPAY v).HEXCNT = s.HEXCNT := rfl
@[simp] theorem setPAY_TOK_OUT (v : Dword) : (s.setPAY v).TOK_OUT = s.TOK_OUT := rfl
@[simp] theorem setPAY_host (v : Dword) : (s.setPAY v).host = s.host := rfl
@[simp] theorem setPAY_seen (v : Dword) : (s.setPAY v).seen = s.seen := rfl
@[simp] theorem setPAY_draws (v : Dword) : (s.setPAY v).draws = s.draws := rfl

/-! ### setCHK -/

@[simp] theorem setCHK_STATE (v : Word) : (s.setCHK v).STATE = s.STATE := rfl
@[simp] theorem setCHK_ERR (v : Word) : (s.setCHK v).ERR = s.ERR := rfl
@[simp] theorem setCHK_SCH_NF_IN (v : Word) : (s.setCHK v).SCH_NF_IN = s.SCH_NF_IN := rfl
@[simp] theorem setCHK_SCH_W_IN (v : Word) : (s.setCHK v).SCH_W_IN = s.SCH_W_IN := rfl
@[simp] theorem setCHK_KEY_IN (v : Word) : (s.setCHK v).KEY_IN = s.KEY_IN := rfl
@[simp] theorem setCHK_NF (v : Word) : (s.setCHK v).NF = s.NF := rfl
@[simp] theorem setCHK_W (v : Word) : (s.setCHK v).W = s.W := rfl
@[simp] theorem setCHK_PRE (v : Word) : (s.setCHK v).PRE = s.PRE := rfl
@[simp] theorem setCHK_INDEX (v : Word) : (s.setCHK v).INDEX = s.INDEX := rfl
@[simp] theorem setCHK_POST (v : Word) : (s.setCHK v).POST = s.POST := rfl
@[simp] theorem setCHK_REC (v : Word) : (s.setCHK v).REC = s.REC := rfl
@[simp] theorem setCHK_PAY (v : Word) : (s.setCHK v).PAY = s.PAY := rfl
@[simp] theorem setCHK_CHK (v : Word) : (s.setCHK v).CHK = v := rfl
@[simp] theorem setCHK_BLK (v : Word) : (s.setCHK v).BLK = s.BLK := rfl
@[simp] theorem setCHK_HEXBUF (v : Word) : (s.setCHK v).HEXBUF = s.HEXBUF := rfl
@[simp] theorem setCHK_HEXCNT (v : Word) : (s.setCHK v).HEXCNT = s.HEXCNT := rfl
@[simp] theorem setCHK_TOK_OUT (v : Word) : (s.setCHK v).TOK_OUT = s.TOK_OUT := rfl
@[simp] theorem setCHK_host (v : Word) : (s.setCHK v).host = s.host := rfl
@[simp] theorem setCHK_seen (v : Word) : (s.setCHK v).seen = s.seen := rfl
@[simp] theorem setCHK_draws (v : Word) : (s.setCHK v).draws = s.draws := rfl

/-! ### setBLK -/

@[simp] theorem setBLK_STATE (v : Block) : (s.setBLK v).STATE = s.STATE := rfl
@[simp] theorem setBLK_ERR (v : Block) : (s.setBLK v).ERR = s.ERR := rfl
@[simp] theorem setBLK_SCH_NF_IN (v : Block) : (s.setBLK v).SCH_NF_IN = s.SCH_NF_IN := rfl
@[simp] theorem setBLK_SCH_W_IN (v : Block) : (s.setBLK v).SCH_W_IN = s.SCH_W_IN := rfl
@[simp] theorem setBLK_KEY_IN (v : Block) : (s.setBLK v).KEY_IN = s.KEY_IN := rfl
@[simp] theorem setBLK_NF (v : Block) : (s.setBLK v).NF = s.NF := rfl
@[simp] theorem setBLK_W (v : Block) : (s.setBLK v).W = s.W := rfl
@[simp] theorem setBLK_PRE (v : Block) : (s.setBLK v).PRE = s.PRE := rfl
@[simp] theorem setBLK_INDEX (v : Block) : (s.setBLK v).INDEX = s.INDEX := rfl
@[simp] theorem setBLK_POST (v : Block) : (s.setBLK v).POST = s.POST := rfl
@[simp] theorem setBLK_REC (v : Block) : (s.setBLK v).REC = s.REC := rfl
@[simp] theorem setBLK_PAY (v : Block) : (s.setBLK v).PAY = s.PAY := rfl
@[simp] theorem setBLK_CHK (v : Block) : (s.setBLK v).CHK = s.CHK := rfl
@[simp] theorem setBLK_BLK (v : Block) : (s.setBLK v).BLK = v := rfl
@[simp] theorem setBLK_HEXBUF (v : Block) : (s.setBLK v).HEXBUF = s.HEXBUF := rfl
@[simp] theorem setBLK_HEXCNT (v : Block) : (s.setBLK v).HEXCNT = s.HEXCNT := rfl
@[simp] theorem setBLK_TOK_OUT (v : Block) : (s.setBLK v).TOK_OUT = s.TOK_OUT := rfl
@[simp] theorem setBLK_host (v : Block) : (s.setBLK v).host = s.host := rfl
@[simp] theorem setBLK_seen (v : Block) : (s.setBLK v).seen = s.seen := rfl
@[simp] theorem setBLK_draws (v : Block) : (s.setBLK v).draws = s.draws := rfl

/-! ### setHEXBUF -/

@[simp] theorem setHEXBUF_STATE (v : Block) : (s.setHEXBUF v).STATE = s.STATE := rfl
@[simp] theorem setHEXBUF_ERR (v : Block) : (s.setHEXBUF v).ERR = s.ERR := rfl
@[simp] theorem setHEXBUF_SCH_NF_IN (v : Block) : (s.setHEXBUF v).SCH_NF_IN = s.SCH_NF_IN := rfl
@[simp] theorem setHEXBUF_SCH_W_IN (v : Block) : (s.setHEXBUF v).SCH_W_IN = s.SCH_W_IN := rfl
@[simp] theorem setHEXBUF_KEY_IN (v : Block) : (s.setHEXBUF v).KEY_IN = s.KEY_IN := rfl
@[simp] theorem setHEXBUF_NF (v : Block) : (s.setHEXBUF v).NF = s.NF := rfl
@[simp] theorem setHEXBUF_W (v : Block) : (s.setHEXBUF v).W = s.W := rfl
@[simp] theorem setHEXBUF_PRE (v : Block) : (s.setHEXBUF v).PRE = s.PRE := rfl
@[simp] theorem setHEXBUF_INDEX (v : Block) : (s.setHEXBUF v).INDEX = s.INDEX := rfl
@[simp] theorem setHEXBUF_POST (v : Block) : (s.setHEXBUF v).POST = s.POST := rfl
@[simp] theorem setHEXBUF_REC (v : Block) : (s.setHEXBUF v).REC = s.REC := rfl
@[simp] theorem setHEXBUF_PAY (v : Block) : (s.setHEXBUF v).PAY = s.PAY := rfl
@[simp] theorem setHEXBUF_CHK (v : Block) : (s.setHEXBUF v).CHK = s.CHK := rfl
@[simp] theorem setHEXBUF_BLK (v : Block) : (s.setHEXBUF v).BLK = s.BLK := rfl
@[simp] theorem setHEXBUF_HEXBUF (v : Block) : (s.setHEXBUF v).HEXBUF = v := rfl
@[simp] theorem setHEXBUF_HEXCNT (v : Block) : (s.setHEXBUF v).HEXCNT = s.HEXCNT := rfl
@[simp] theorem setHEXBUF_TOK_OUT (v : Block) : (s.setHEXBUF v).TOK_OUT = s.TOK_OUT := rfl
@[simp] theorem setHEXBUF_host (v : Block) : (s.setHEXBUF v).host = s.host := rfl
@[simp] theorem setHEXBUF_seen (v : Block) : (s.setHEXBUF v).seen = s.seen := rfl
@[simp] theorem setHEXBUF_draws (v : Block) : (s.setHEXBUF v).draws = s.draws := rfl

/-! ### setHEXCNT -/

@[simp] theorem setHEXCNT_STATE (v : BitVec 6) : (s.setHEXCNT v).STATE = s.STATE := rfl
@[simp] theorem setHEXCNT_ERR (v : BitVec 6) : (s.setHEXCNT v).ERR = s.ERR := rfl
@[simp] theorem setHEXCNT_SCH_NF_IN (v : BitVec 6) : (s.setHEXCNT v).SCH_NF_IN = s.SCH_NF_IN := rfl
@[simp] theorem setHEXCNT_SCH_W_IN (v : BitVec 6) : (s.setHEXCNT v).SCH_W_IN = s.SCH_W_IN := rfl
@[simp] theorem setHEXCNT_KEY_IN (v : BitVec 6) : (s.setHEXCNT v).KEY_IN = s.KEY_IN := rfl
@[simp] theorem setHEXCNT_NF (v : BitVec 6) : (s.setHEXCNT v).NF = s.NF := rfl
@[simp] theorem setHEXCNT_W (v : BitVec 6) : (s.setHEXCNT v).W = s.W := rfl
@[simp] theorem setHEXCNT_PRE (v : BitVec 6) : (s.setHEXCNT v).PRE = s.PRE := rfl
@[simp] theorem setHEXCNT_INDEX (v : BitVec 6) : (s.setHEXCNT v).INDEX = s.INDEX := rfl
@[simp] theorem setHEXCNT_POST (v : BitVec 6) : (s.setHEXCNT v).POST = s.POST := rfl
@[simp] theorem setHEXCNT_REC (v : BitVec 6) : (s.setHEXCNT v).REC = s.REC := rfl
@[simp] theorem setHEXCNT_PAY (v : BitVec 6) : (s.setHEXCNT v).PAY = s.PAY := rfl
@[simp] theorem setHEXCNT_CHK (v : BitVec 6) : (s.setHEXCNT v).CHK = s.CHK := rfl
@[simp] theorem setHEXCNT_BLK (v : BitVec 6) : (s.setHEXCNT v).BLK = s.BLK := rfl
@[simp] theorem setHEXCNT_HEXBUF (v : BitVec 6) : (s.setHEXCNT v).HEXBUF = s.HEXBUF := rfl
@[simp] theorem setHEXCNT_HEXCNT (v : BitVec 6) : (s.setHEXCNT v).HEXCNT = v := rfl
@[simp] theorem setHEXCNT_TOK_OUT (v : BitVec 6) : (s.setHEXCNT v).TOK_OUT = s.TOK_OUT := rfl
@[simp] theorem setHEXCNT_host (v : BitVec 6) : (s.setHEXCNT v).host = s.host := rfl
@[simp] theorem setHEXCNT_seen (v : BitVec 6) : (s.setHEXCNT v).seen = s.seen := rfl
@[simp] theorem setHEXCNT_draws (v : BitVec 6) : (s.setHEXCNT v).draws = s.draws := rfl

/-! ### setTOK_OUT -/

@[simp] theorem setTOK_OUT_STATE (v : Vector Byte 36) : (s.setTOK_OUT v).STATE = s.STATE := rfl
@[simp] theorem setTOK_OUT_ERR (v : Vector Byte 36) : (s.setTOK_OUT v).ERR = s.ERR := rfl
@[simp] theorem setTOK_OUT_SCH_NF_IN (v : Vector Byte 36) : (s.setTOK_OUT v).SCH_NF_IN = s.SCH_NF_IN := rfl
@[simp] theorem setTOK_OUT_SCH_W_IN (v : Vector Byte 36) : (s.setTOK_OUT v).SCH_W_IN = s.SCH_W_IN := rfl
@[simp] theorem setTOK_OUT_KEY_IN (v : Vector Byte 36) : (s.setTOK_OUT v).KEY_IN = s.KEY_IN := rfl
@[simp] theorem setTOK_OUT_NF (v : Vector Byte 36) : (s.setTOK_OUT v).NF = s.NF := rfl
@[simp] theorem setTOK_OUT_W (v : Vector Byte 36) : (s.setTOK_OUT v).W = s.W := rfl
@[simp] theorem setTOK_OUT_PRE (v : Vector Byte 36) : (s.setTOK_OUT v).PRE = s.PRE := rfl
@[simp] theorem setTOK_OUT_INDEX (v : Vector Byte 36) : (s.setTOK_OUT v).INDEX = s.INDEX := rfl
@[simp] theorem setTOK_OUT_POST (v : Vector Byte 36) : (s.setTOK_OUT v).POST = s.POST := rfl
@[simp] theorem setTOK_OUT_REC (v : Vector Byte 36) : (s.setTOK_OUT v).REC = s.REC := rfl
@[simp] theorem setTOK_OUT_PAY (v : Vector Byte 36) : (s.setTOK_OUT v).PAY = s.PAY := rfl
@[simp] theorem setTOK_OUT_CHK (v : Vector Byte 36) : (s.setTOK_OUT v).CHK = s.CHK := rfl
@[simp] theorem setTOK_OUT_BLK (v : Vector Byte 36) : (s.setTOK_OUT v).BLK = s.BLK := rfl
@[simp] theorem setTOK_OUT_HEXBUF (v : Vector Byte 36) : (s.setTOK_OUT v).HEXBUF = s.HEXBUF := rfl
@[simp] theorem setTOK_OUT_HEXCNT (v : Vector Byte 36) : (s.setTOK_OUT v).HEXCNT = s.HEXCNT := rfl
@[simp] theorem setTOK_OUT_TOK_OUT (v : Vector Byte 36) : (s.setTOK_OUT v).TOK_OUT = v := rfl
@[simp] theorem setTOK_OUT_host (v : Vector Byte 36) : (s.setTOK_OUT v).host = s.host := rfl
@[simp] theorem setTOK_OUT_seen (v : Vector Byte 36) : (s.setTOK_OUT v).seen = s.seen := rfl
@[simp] theorem setTOK_OUT_draws (v : Vector Byte 36) : (s.setTOK_OUT v).draws = s.draws := rfl

/-! ### setHost -/

@[simp] theorem setHost_STATE (v : List HostEvent) : (s.setHost v).STATE = s.STATE := rfl
@[simp] theorem setHost_ERR (v : List HostEvent) : (s.setHost v).ERR = s.ERR := rfl
@[simp] theorem setHost_SCH_NF_IN (v : List HostEvent) : (s.setHost v).SCH_NF_IN = s.SCH_NF_IN := rfl
@[simp] theorem setHost_SCH_W_IN (v : List HostEvent) : (s.setHost v).SCH_W_IN = s.SCH_W_IN := rfl
@[simp] theorem setHost_KEY_IN (v : List HostEvent) : (s.setHost v).KEY_IN = s.KEY_IN := rfl
@[simp] theorem setHost_NF (v : List HostEvent) : (s.setHost v).NF = s.NF := rfl
@[simp] theorem setHost_W (v : List HostEvent) : (s.setHost v).W = s.W := rfl
@[simp] theorem setHost_PRE (v : List HostEvent) : (s.setHost v).PRE = s.PRE := rfl
@[simp] theorem setHost_INDEX (v : List HostEvent) : (s.setHost v).INDEX = s.INDEX := rfl
@[simp] theorem setHost_POST (v : List HostEvent) : (s.setHost v).POST = s.POST := rfl
@[simp] theorem setHost_REC (v : List HostEvent) : (s.setHost v).REC = s.REC := rfl
@[simp] theorem setHost_PAY (v : List HostEvent) : (s.setHost v).PAY = s.PAY := rfl
@[simp] theorem setHost_CHK (v : List HostEvent) : (s.setHost v).CHK = s.CHK := rfl
@[simp] theorem setHost_BLK (v : List HostEvent) : (s.setHost v).BLK = s.BLK := rfl
@[simp] theorem setHost_HEXBUF (v : List HostEvent) : (s.setHost v).HEXBUF = s.HEXBUF := rfl
@[simp] theorem setHost_HEXCNT (v : List HostEvent) : (s.setHost v).HEXCNT = s.HEXCNT := rfl
@[simp] theorem setHost_TOK_OUT (v : List HostEvent) : (s.setHost v).TOK_OUT = s.TOK_OUT := rfl
@[simp] theorem setHost_host (v : List HostEvent) : (s.setHost v).host = v := rfl
@[simp] theorem setHost_seen (v : List HostEvent) : (s.setHost v).seen = s.seen := rfl
@[simp] theorem setHost_draws (v : List HostEvent) : (s.setHost v).draws = s.draws := rfl

/-! ### setSeen -/

@[simp] theorem setSeen_STATE (v : List Word) : (s.setSeen v).STATE = s.STATE := rfl
@[simp] theorem setSeen_ERR (v : List Word) : (s.setSeen v).ERR = s.ERR := rfl
@[simp] theorem setSeen_SCH_NF_IN (v : List Word) : (s.setSeen v).SCH_NF_IN = s.SCH_NF_IN := rfl
@[simp] theorem setSeen_SCH_W_IN (v : List Word) : (s.setSeen v).SCH_W_IN = s.SCH_W_IN := rfl
@[simp] theorem setSeen_KEY_IN (v : List Word) : (s.setSeen v).KEY_IN = s.KEY_IN := rfl
@[simp] theorem setSeen_NF (v : List Word) : (s.setSeen v).NF = s.NF := rfl
@[simp] theorem setSeen_W (v : List Word) : (s.setSeen v).W = s.W := rfl
@[simp] theorem setSeen_PRE (v : List Word) : (s.setSeen v).PRE = s.PRE := rfl
@[simp] theorem setSeen_INDEX (v : List Word) : (s.setSeen v).INDEX = s.INDEX := rfl
@[simp] theorem setSeen_POST (v : List Word) : (s.setSeen v).POST = s.POST := rfl
@[simp] theorem setSeen_REC (v : List Word) : (s.setSeen v).REC = s.REC := rfl
@[simp] theorem setSeen_PAY (v : List Word) : (s.setSeen v).PAY = s.PAY := rfl
@[simp] theorem setSeen_CHK (v : List Word) : (s.setSeen v).CHK = s.CHK := rfl
@[simp] theorem setSeen_BLK (v : List Word) : (s.setSeen v).BLK = s.BLK := rfl
@[simp] theorem setSeen_HEXBUF (v : List Word) : (s.setSeen v).HEXBUF = s.HEXBUF := rfl
@[simp] theorem setSeen_HEXCNT (v : List Word) : (s.setSeen v).HEXCNT = s.HEXCNT := rfl
@[simp] theorem setSeen_TOK_OUT (v : List Word) : (s.setSeen v).TOK_OUT = s.TOK_OUT := rfl
@[simp] theorem setSeen_host (v : List Word) : (s.setSeen v).host = s.host := rfl
@[simp] theorem setSeen_seen (v : List Word) : (s.setSeen v).seen = v := rfl
@[simp] theorem setSeen_draws (v : List Word) : (s.setSeen v).draws = s.draws := rfl

/-! ### setDraws -/

@[simp] theorem setDraws_STATE (v : Nat) : (s.setDraws v).STATE = s.STATE := rfl
@[simp] theorem setDraws_ERR (v : Nat) : (s.setDraws v).ERR = s.ERR := rfl
@[simp] theorem setDraws_SCH_NF_IN (v : Nat) : (s.setDraws v).SCH_NF_IN = s.SCH_NF_IN := rfl
@[simp] theorem setDraws_SCH_W_IN (v : Nat) : (s.setDraws v).SCH_W_IN = s.SCH_W_IN := rfl
@[simp] theorem setDraws_KEY_IN (v : Nat) : (s.setDraws v).KEY_IN = s.KEY_IN := rfl
@[simp] theorem setDraws_NF (v : Nat) : (s.setDraws v).NF = s.NF := rfl
@[simp] theorem setDraws_W (v : Nat) : (s.setDraws v).W = s.W := rfl
@[simp] theorem setDraws_PRE (v : Nat) : (s.setDraws v).PRE = s.PRE := rfl
@[simp] theorem setDraws_INDEX (v : Nat) : (s.setDraws v).INDEX = s.INDEX := rfl
@[simp] theorem setDraws_POST (v : Nat) : (s.setDraws v).POST = s.POST := rfl
@[simp] theorem setDraws_REC (v : Nat) : (s.setDraws v).REC = s.REC := rfl
@[simp] theorem setDraws_PAY (v : Nat) : (s.setDraws v).PAY = s.PAY := rfl
@[simp] theorem setDraws_CHK (v : Nat) : (s.setDraws v).CHK = s.CHK := rfl
@[simp] theorem setDraws_BLK (v : Nat) : (s.setDraws v).BLK = s.BLK := rfl
@[simp] theorem setDraws_HEXBUF (v : Nat) : (s.setDraws v).HEXBUF = s.HEXBUF := rfl
@[simp] theorem setDraws_HEXCNT (v : Nat) : (s.setDraws v).HEXCNT = s.HEXCNT := rfl
@[simp] theorem setDraws_TOK_OUT (v : Nat) : (s.setDraws v).TOK_OUT = s.TOK_OUT := rfl
@[simp] theorem setDraws_host (v : Nat) : (s.setDraws v).host = s.host := rfl
@[simp] theorem setDraws_seen (v : Nat) : (s.setDraws v).seen = s.seen := rfl
@[simp] theorem setDraws_draws (v : Nat) : (s.setDraws v).draws = v := rfl

/-! ### setConfig -/

variable (nf : BitVec 5) (w : Vector Byte 16) (pre index post : Word)

@[simp] theorem setConfig_STATE : (s.setConfig nf w pre index post).STATE = s.STATE := rfl
@[simp] theorem setConfig_ERR : (s.setConfig nf w pre index post).ERR = s.ERR := rfl
@[simp] theorem setConfig_SCH_NF_IN : (s.setConfig nf w pre index post).SCH_NF_IN = s.SCH_NF_IN := rfl
@[simp] theorem setConfig_SCH_W_IN : (s.setConfig nf w pre index post).SCH_W_IN = s.SCH_W_IN := rfl
@[simp] theorem setConfig_KEY_IN : (s.setConfig nf w pre index post).KEY_IN = s.KEY_IN := rfl
@[simp] theorem setConfig_NF : (s.setConfig nf w pre index post).NF = nf := rfl
@[simp] theorem setConfig_W : (s.setConfig nf w pre index post).W = w := rfl
@[simp] theorem setConfig_PRE : (s.setConfig nf w pre index post).PRE = pre := rfl
@[simp] theorem setConfig_INDEX : (s.setConfig nf w pre index post).INDEX = index := rfl
@[simp] theorem setConfig_POST : (s.setConfig nf w pre index post).POST = post := rfl
@[simp] theorem setConfig_REC : (s.setConfig nf w pre index post).REC = s.REC := rfl
@[simp] theorem setConfig_PAY : (s.setConfig nf w pre index post).PAY = s.PAY := rfl
@[simp] theorem setConfig_CHK : (s.setConfig nf w pre index post).CHK = s.CHK := rfl
@[simp] theorem setConfig_BLK : (s.setConfig nf w pre index post).BLK = s.BLK := rfl
@[simp] theorem setConfig_HEXBUF : (s.setConfig nf w pre index post).HEXBUF = s.HEXBUF := rfl
@[simp] theorem setConfig_HEXCNT : (s.setConfig nf w pre index post).HEXCNT = s.HEXCNT := rfl
@[simp] theorem setConfig_TOK_OUT : (s.setConfig nf w pre index post).TOK_OUT = s.TOK_OUT := rfl
@[simp] theorem setConfig_host : (s.setConfig nf w pre index post).host = s.host := rfl
@[simp] theorem setConfig_seen : (s.setConfig nf w pre index post).seen = s.seen := rfl
@[simp] theorem setConfig_draws : (s.setConfig nf w pre index post).draws = s.draws := rfl

end Sys2Proof.Machine.State
end

