-- ==== Sys2Proof/Laws/Ops.lean ====
section
/-! SUPPORT. What the shared operations of Machine/Ops.lean and the stages can do, said once; later proofs cite these. -/

namespace Sys2Proof.Machine

@[simp] theorem Stage.andThen_done (s : State) (f : State → Stage) : (Stage.done s).andThen f = f s := rfl

@[simp] theorem Stage.andThen_failed (e : ErrCode) (s : State) (f : State → Stage) :
    (Stage.failed e s).andThen f = .failed e s := rfl

@[simp] theorem Stage.finish_done (s : State) : (Stage.done s).finish = { s with ERR := 0 } := rfl

@[simp] theorem Stage.finish_failed (e : ErrCode) (s : State) : (Stage.failed e s).finish = { s with ERR := e.code } := rfl

/-- A command that passes through two stages ends as the second one does, or as the first one failed. -/
theorem Stage.andThen_cases (r : Stage) (f : State → Stage) :
    (∃ s, r = .done s ∧ r.andThen f = f s) ∨ (∃ e s, r = .failed e s ∧ r.andThen f = .failed e s) := by
  cases r with
  | done s => exact .inl ⟨s, rfl, rfl⟩
  | failed e s => exact .inr ⟨e, s, rfl, rfl⟩

theorem State.mode_cases (s : State) : s.STATE = .uninitialized ∨ s.STATE = .ready := by cases s.STATE <;> simp

theorem whenReady_of_ready {s : State} (h : s.STATE = .ready) : whenReady s = .done s := by simp [whenReady, h]

theorem whenReady_of_uninitialized {s : State} (h : s.STATE = .uninitialized) :
    whenReady s = .failed .uninitialized s := by simp [whenReady, h]

/-- Every code is at most 6 (10_state.md R24). -/
theorem ErrCode.code_le (e : ErrCode) : e.code.toNat ≤ 6 := by cases e <;> decide

/-- Only `ok` has the code 0 (60_exceptions.md R151). -/
theorem ErrCode.code_eq_zero (e : ErrCode) : e.code = 0 ↔ e = .ok := by cases e <;> decide

/-! ### What each stage answers -/

theorem stagePack_eq (s : State) :
    stagePack s = .done { s with PAY := pack s.NF.toNat (widthList s.W) (recordList s.REC) } := rfl

theorem stageUnpack_eq (s : State) : stageUnpack s = .done { s with REC := unpackedRecord s } := rfl

theorem stageCompute_eq (s : State) : stageCompute s = .done { s with CHK := compute s.PRE s.INDEX s.POST s.PAY } := rfl

theorem stageMask_eq (wf : Word → Block) (s : State) : stageMask wf s = .done { s with BLK := mask wf s.CHK s.PAY } := rfl

theorem stageFormat_eq (s : State) : stageFormat s = .done { s with TOK_OUT := toToken s.BLK } := rfl

theorem stageTxclr_eq (s : State) : stageTxclr s = .done { s with HEXBUF := 0, HEXCNT := 0 } := rfl

theorem stageValidate_cases (s : State) :
    (stagedValid s = true ∧ stageValidate s = .done s) ∨
    (stagedValid s = false ∧ stageValidate s = .failed .invalidSchema s) := by
  unfold stageValidate
  cases h : stagedValid s <;> simp

theorem stageVerify_cases (s : State) :
    (compute s.PRE s.INDEX s.POST s.PAY = s.CHK ∧ stageVerify s = .done s) ∨
    (compute s.PRE s.INDEX s.POST s.PAY ≠ s.CHK ∧ stageVerify s = .failed .checksumMismatch s) := by
  unfold stageVerify verify
  by_cases h : compute s.PRE s.INDEX s.POST s.PAY = s.CHK <;> simp [h]

theorem stageParse_cases (s : State) :
    (s.HEXCNT = 32 ∧ stageParse s = .done { s with BLK := s.HEXBUF }) ∨
    (s.HEXCNT ≠ 32 ∧ stageParse s = .failed .malformedToken s) := by
  unfold stageParse
  by_cases h : s.HEXCNT = 32
  · exact .inl ⟨h, if_pos h⟩
  · exact .inr ⟨h, if_neg h⟩

/-- The block's clear copy of the checksum (43_ciphermixer.md R107). -/
def clearCopy (b : Block) : Word := b.extractLsb' 0 32

/-- The block's embedded copy of the checksum, unmasked (43_ciphermixer.md R107). -/
def embeddedCopy (wf : Word → Block) (b : Block) : Word := b.extractLsb' 96 32 ^^^ (wf (clearCopy b)).extractLsb' 96 32

/-- The block's payload, unmasked (43_ciphermixer.md R107). -/
def unmaskedPayload (wf : Word → Block) (b : Block) : Dword := b.extractLsb' 32 64 ^^^ (wf (clearCopy b)).extractLsb' 32 64

theorem unmask_eq (wf : Word → Block) (b : Block) :
    unmask wf b = if clearCopy b = embeddedCopy wf b then some (clearCopy b, unmaskedPayload wf b) else none := rfl

theorem stageUnmask_cases (wf : Word → Block) (s : State) :
    (clearCopy s.BLK = embeddedCopy wf s.BLK ∧
      stageUnmask wf s = .done { s with CHK := clearCopy s.BLK, PAY := unmaskedPayload wf s.BLK }) ∨
    (clearCopy s.BLK ≠ embeddedCopy wf s.BLK ∧ stageUnmask wf s = .failed .formatInvalid s) := by
  unfold stageUnmask
  rw [unmask_eq]
  by_cases h : clearCopy s.BLK = embeddedCopy wf s.BLK
  · exact .inl ⟨h, by simp [h, State.setCHK, State.setPAY]⟩
  · exact .inr ⟨h, by simp [h]⟩

theorem stagePutc_cases (c : Byte) (s : State) :
    (hexval c = none ∧ stagePutc c s = .done s) ∨
    (∃ d, hexval c = some d ∧ stagePutc c s = .done { s with
      HEXBUF := if s.HEXCNT.toNat < 32 then setNib s.HEXBUF s.HEXCNT.toNat d else s.HEXBUF
      HEXCNT := BitVec.ofNat 6 (min (s.HEXCNT.toNat + 1) 33) }) := by
  unfold stagePutc
  cases h : hexval c with
  | none => exact .inl ⟨rfl, rfl⟩
  | some d => exact .inr ⟨d, rfl, rfl⟩

theorem orStr_topBit (x : Word) : (orStr x 0x80000000#32).setWidth 32 = x ||| 0x80000000#32 := by
  simp [orStr]

theorem initialise_cases (p : Config.InitFailState) (key : Block) (s : State) :
    (stagedValid s = true ∧ initialise p key s = .done { s with
      NF := s.SCH_NF_IN, W := activatedWidths s, PRE := key.extractLsb' 96 32,
      INDEX := key.extractLsb' 64 32 ||| 0x80000000#32, POST := key.extractLsb' 32 32, STATE := .ready }) ∨
    (stagedValid s = false ∧ initialise p key s = .failed .invalidSchema { s with STATE := failedInitMode p s.STATE }) := by
  unfold initialise
  cases h : stagedValid s with
  | true =>
    refine .inl ⟨rfl, ?_⟩
    simp only [if_true, ← orStr_topBit]
    rfl
  | false => exact .inr ⟨rfl, by simp [State.setSTATE]⟩

theorem activatedWidths_get (s : State) (k : Fin 16) :
    (activatedWidths s)[k] = if k.val < s.SCH_NF_IN.toNat then s.SCH_W_IN[k] else 0 := by
  simp [activatedWidths]

theorem unpackedRecord_get (s : State) (k : Fin 16) :
    (unpackedRecord s)[k] =
      if k.val < s.NF.toNat then BitVec.ofNat 64 (unpackField (widthList s.W) s.PAY k.val) else s.REC[k] := by
  simp [unpackedRecord]

theorem encodeStages_of_ready (wf : Word → Block) {s : State} (h : s.STATE = .ready) :
    encodeStages wf s =
      let p := pack s.NF.toNat (widthList s.W) (recordList s.REC)
      let c := compute s.PRE s.INDEX s.POST p
      .done { s with PAY := p, CHK := c, BLK := mask wf c p, TOK_OUT := toToken (mask wf c p) } := by
  simp only [encodeStages, whenReady_of_ready h]
  rfl

/-- The ends DECODE's stages can come to, in the order they are tested (45_toplevel.md R135, 60_exceptions.md R159). -/
theorem decodeStages_cases (wf : Word → Block) (s : State) :
    (s.STATE = .uninitialized ∧ decodeStages wf s = .failed .uninitialized s) ∨
    (s.STATE = .ready ∧ s.HEXCNT ≠ 32 ∧ decodeStages wf s = .failed .malformedToken s) ∨
    (s.STATE = .ready ∧ s.HEXCNT = 32 ∧ clearCopy s.HEXBUF ≠ embeddedCopy wf s.HEXBUF ∧
      decodeStages wf s = .failed .formatInvalid { s with BLK := s.HEXBUF }) ∨
    (s.STATE = .ready ∧ s.HEXCNT = 32 ∧ clearCopy s.HEXBUF = embeddedCopy wf s.HEXBUF ∧
      compute s.PRE s.INDEX s.POST (unmaskedPayload wf s.HEXBUF) ≠ clearCopy s.HEXBUF ∧
      decodeStages wf s = .failed .checksumMismatch
        { s with BLK := s.HEXBUF, CHK := clearCopy s.HEXBUF, PAY := unmaskedPayload wf s.HEXBUF }) ∨
    (s.STATE = .ready ∧ s.HEXCNT = 32 ∧ clearCopy s.HEXBUF = embeddedCopy wf s.HEXBUF ∧
      compute s.PRE s.INDEX s.POST (unmaskedPayload wf s.HEXBUF) = clearCopy s.HEXBUF ∧
      decodeStages wf s = .done
        { s with BLK := s.HEXBUF, CHK := clearCopy s.HEXBUF, PAY := unmaskedPayload wf s.HEXBUF,
                 REC := unpackedRecord { s with PAY := unmaskedPayload wf s.HEXBUF } }) := by
  unfold decodeStages
  rcases s.mode_cases with hm | hm
  · exact .inl ⟨hm, by rw [whenReady_of_uninitialized hm]; rfl⟩
  · refine .inr ?_
    rw [whenReady_of_ready hm, Stage.andThen_done]
    rcases stageParse_cases s with ⟨hc, e⟩ | ⟨hc, e⟩
    · refine .inr ?_
      rw [e, Stage.andThen_done]
      rcases stageUnmask_cases wf { s with BLK := s.HEXBUF } with ⟨hu, e⟩ | ⟨hu, e⟩
      · refine .inr ?_
        rw [e, Stage.andThen_done]
        rcases stageVerify_cases
            { s with BLK := s.HEXBUF, CHK := clearCopy s.HEXBUF, PAY := unmaskedPayload wf s.HEXBUF } with ⟨hv, e⟩ | ⟨hv, e⟩
        · exact .inr ⟨hm, hc, hu, hv, by rw [e]; rfl⟩
        · exact .inl ⟨hm, hc, hu, hv, by rw [e]; rfl⟩
      · exact .inl ⟨hm, hc, hu, by rw [e]; rfl⟩
    · exact .inl ⟨hm, hc, by rw [e]; rfl⟩

end Sys2Proof.Machine
end

