-- ==== Sys2Proof/Laws/Commands.lean ====
section
/-! SUPPORT. Every command is a row of stages and an end; what a host event and a list of them can do. -/

namespace Sys2Proof.Machine

/-- The stages of each command. -/
def stages (i : Instr) (s : State) : Stage :=
  match i with
  | .nop => .done s
  | .init => initialise Config.initFailState s.KEY_IN s
  | .inite => initialise Config.initFailState (Config.draw s.draws) (takeDraw s)
  | .validate => stageValidate s
  | .encode => encodeStages Config.whiten s
  | .decode => decodeStages Config.whiten s
  | .pack => (whenReady s).andThen stagePack
  | .unpack => (whenReady s).andThen stageUnpack
  | .compute => (whenReady s).andThen stageCompute
  | .verify => (whenReady s).andThen stageVerify
  | .mask => stageMask Config.whiten s
  | .unmask => stageUnmask Config.whiten s
  | .format => stageFormat s
  | .parse => stageParse s
  | .txclr => stageTxclr s
  | .putc c => stagePutc c s

/-- A command is its stages and the write of `ERR` that ends it. -/
theorem exec_eq (i : Instr) (s : State) : exec i s = .next (stages i s).finish := by cases i <;> rfl

theorem exec_of_done {i : Instr} {s t : State} (h : stages i s = .done t) : exec i s = .next { t with ERR := 0 } := by
  rw [exec_eq, h, Stage.finish_done]

theorem exec_of_failed {i : Instr} {s t : State} {e : ErrCode} (h : stages i s = .failed e t) :
    exec i s = .next { t with ERR := e.code } := by
  rw [exec_eq, h, Stage.finish_failed]

/-- A command that tests for `Ready` first (60_exceptions.md R156) is its stages when `Ready`, and `fail Uninitialized` otherwise. -/
theorem exec_of_whenReady {i : Instr} {s : State} {f : State → Stage} (h : stages i s = (whenReady s).andThen f) :
    (s.STATE = .uninitialized ∧ exec i s = .next { s with ERR := 2 }) ∨
    (s.STATE = .ready ∧ exec i s = .next (f s).finish) := by
  rcases s.mode_cases with hm | hm
  · refine .inl ⟨hm, exec_of_failed (e := .uninitialized) ?_⟩
    rw [h, whenReady_of_uninitialized hm, Stage.andThen_failed]
  · refine .inr ⟨hm, ?_⟩
    rw [exec_eq, h, whenReady_of_ready hm, Stage.andThen_done]

theorem serveAll_cons_of_next {e : HostEvent} {es : List HostEvent} {s t : State} (h : serve e s = .next t) :
    serveAll (e :: es) s = serveAll es t := by simp [serveAll, h]

theorem serveAll_append_of_next {es es' : List HostEvent} {s t : State} (h : serveAll es s = .next t) :
    serveAll (es ++ es') s = serveAll es' t := by
  induction es generalizing s with
  | nil =>
    cases h
    rfl
  | cons e es ih =>
    rw [List.cons_append]
    simp only [serveAll] at h ⊢
    cases he : serve e s with
    | next u => rw [he] at h; exact ih h
    | fault r => rw [he] at h; cases h
    | refused r => rw [he] at h; cases h

/-- A word whose decoding is a command is executed as it. -/
theorem serve_command {w : Word} {i : Instr} (h : decode w = .command i) (s : State) :
    serve (.write 0x00 w) s = exec i s := by
  show command w s = exec i s
  simp [command, h]

theorem serve_illegal {w : Word} {why : IllegalWord} (h : decode w = .illegal why) (s : State) :
    serve (.write 0x00 w) s = .next { s with ERR := 6 } := by
  show command w s = _
  simp [command, h, illegalCommand, fail, ErrCode.code, State.setERR]

end Sys2Proof.Machine
end

