-- ==== Sys2Proof/Laws/Operands.lean ====
section
/-! SUPPORT. The laws of the operand views: a digit, word or byte read after a write to the same place is the value written, and a
write leaves every other place alone. -/

namespace Sys2Proof.Machine

/-! ### Concatenations at the widths of SCC, bit by bit -/

theorem getLsbD_words2 (a b : Word) (i : Nat) :
    (a ++ b : BitVec 64).getLsbD i = if i < 32 then b.getLsbD i else a.getLsbD (i - 32) := by
  show @BitVec.getLsbD (32 + 32) (a ++ b) i = _
  rw [BitVec.getLsbD_append]

theorem getLsbD_words4 (a b c d : Word) (i : Nat) :
    (a ++ b ++ c ++ d : BitVec 128).getLsbD i =
      if i < 32 then d.getLsbD i else if i < 64 then c.getLsbD (i - 32)
      else if i < 96 then b.getLsbD (i - 64) else a.getLsbD (i - 96) := by
  show @BitVec.getLsbD (32 + 32 + 32 + 32) (a ++ b ++ c ++ d) i = _
  rw [BitVec.getLsbD_append, BitVec.getLsbD_append, BitVec.getLsbD_append]
  simp only [Nat.sub_sub]
  repeat' split
  all_goals first | rfl | omega

theorem getLsbD_bytes4 (a b c d : Byte) (i : Nat) :
    (a ++ b ++ c ++ d : BitVec 32).getLsbD i =
      if i < 8 then d.getLsbD i else if i < 16 then c.getLsbD (i - 8)
      else if i < 24 then b.getLsbD (i - 16) else a.getLsbD (i - 24) := by
  show @BitVec.getLsbD (8 + 8 + 8 + 8) (a ++ b ++ c ++ d) i = _
  rw [BitVec.getLsbD_append, BitVec.getLsbD_append, BitVec.getLsbD_append]
  simp only [Nat.sub_sub]
  repeat' split
  all_goals first | rfl | omega

/-- The block of 43_ciphermixer.md R106, bit by bit. -/
theorem getLsbD_tokenParts (c : Word) (p : Dword) (z : Word) (i : Nat) :
    (c ++ p ++ z : BitVec 128).getLsbD i =
      if i < 32 then z.getLsbD i else if i < 96 then p.getLsbD (i - 32) else c.getLsbD (i - 96) := by
  show @BitVec.getLsbD (32 + 64 + 32) (c ++ p ++ z) i = _
  rw [BitVec.getLsbD_append, BitVec.getLsbD_append]
  simp only [Nat.sub_sub]
  repeat' split
  all_goals first | rfl | omega

/-! ### Hex digits of a block -/

theorem nib_getLsbD (v : Block) (j i : Nat) : (nib v j).getLsbD i = (decide (i < 4) && v.getLsbD (124 - 4 * j + i)) := by
  simp [nib]

theorem setNib_getLsbD (v : Block) (j : Nat) (d : Nibble) (i : Nat) (hi : i < 128) :
    (setNib v j d).getLsbD i =
      if 124 - 4 * j ≤ i ∧ i < 124 - 4 * j + 4 then d.getLsbD (i - (124 - 4 * j)) else v.getLsbD i := by
  have hF : ∀ k, k < 128 → (0xF#128).getLsbD k = decide (k < 4) := by decide
  simp only [setNib, BitVec.getLsbD_or, BitVec.getLsbD_and, BitVec.getLsbD_not, BitVec.getLsbD_shiftLeft,
    BitVec.getLsbD_setWidth, hi, decide_true, Bool.true_and]
  rw [hF _ (by omega)]
  by_cases h1 : i < 124 - 4 * j
  · rw [if_neg (by omega)]
    simp [h1]
  · by_cases h2 : i < 124 - 4 * j + 4
    · rw [if_pos (by omega)]
      simp [h1, show i - (124 - 4 * j) < 4 by omega, show i - (124 - 4 * j) < 128 by omega]
    · rw [if_neg (by omega), BitVec.getLsbD_of_ge d (i - (124 - 4 * j)) (by omega)]
      simp [show ¬ i - (124 - 4 * j) < 4 by omega]

theorem nib_setNib_same (v : Block) (j : Nat) (d : Nibble) (hj : j < 32) : nib (setNib v j d) j = d := by
  apply BitVec.eq_of_getLsbD_eq
  intro i hi
  rw [nib_getLsbD, setNib_getLsbD _ _ _ _ (by omega), if_pos (by omega)]
  simp [hi]

theorem nib_setNib_ne (v : Block) (j k : Nat) (d : Nibble) (hj : j < 32) (hk : k < 32) (h : k ≠ j) :
    nib (setNib v j d) k = nib v k := by
  apply BitVec.eq_of_getLsbD_eq
  intro i hi
  rw [nib_getLsbD, nib_getLsbD, setNib_getLsbD _ _ _ _ (by omega), if_neg (by omega)]

/-- A block is its 32 digits. -/
theorem block_ext_nib {a b : Block} (h : ∀ j, j < 32 → nib a j = nib b j) : a = b := by
  apply BitVec.eq_of_getLsbD_eq
  intro i hi
  have := congrArg (fun d => d.getLsbD (i % 4)) (h (31 - i / 4) (by omega))
  simp only [nib_getLsbD] at this
  have h4 : i % 4 < 4 := by omega
  rw [show 124 - 4 * (31 - i / 4) + i % 4 = i by omega] at this
  simpa [h4] using this

theorem nib_zero (j : Nat) : nib 0 j = 0 := by
  apply BitVec.eq_of_getLsbD_eq
  intro i hi
  simp [nib]

theorem joinNibs_append (ds : List Nibble) (d : Nibble) :
    joinNibs (ds ++ [d]) = (joinNibs ds <<< 4) ||| d.setWidth 128 := by
  simp [joinNibs]

theorem nib_shiftIn (b : Block) (d : Nibble) (j : Nat) (hj : j < 32) :
    nib ((b <<< 4) ||| d.setWidth 128) j = if j = 31 then d else nib b (j + 1) := by
  apply BitVec.eq_of_getLsbD_eq
  intro i hi
  rw [nib_getLsbD]
  simp only [BitVec.getLsbD_or, BitVec.getLsbD_shiftLeft, BitVec.getLsbD_setWidth]
  by_cases h : j = 31
  · subst h
    have h2 : i < 128 := by omega
    simp [hi, h2]
  · have h1 : ¬ 124 - 4 * j + i < 4 := by omega
    have h2 : d.getLsbD (124 - 4 * j + i) = false := BitVec.getLsbD_of_ge _ _ (by omega)
    have h3 : 124 - 4 * j + i < 128 := by omega
    rw [if_neg h, nib_getLsbD]
    rw [show 124 - 4 * (j + 1) + i = 124 - 4 * j + i - 4 by omega]
    simp [h1, h2, h3]

/-- The last digits put are the last digits of the block. -/
theorem nib_joinNibs_back (ds : List Nibble) (hl : ds.length ≤ 32) (j : Nat) (hj : j < 32) :
    nib (joinNibs ds) j = if 32 - ds.length ≤ j then ds.getD (j - (32 - ds.length)) 0 else 0 := by
  induction ds using List.reverseRecOn generalizing j with
  | nil =>
    rw [show joinNibs [] = 0 from rfl, nib_zero]
    simp
  | append_singleton ds d ih =>
    simp only [List.length_append, List.length_singleton] at hl ⊢
    rw [joinNibs_append, nib_shiftIn _ _ _ hj]
    by_cases h : j = 31
    · subst h
      rw [if_pos rfl, if_pos (by omega), show 31 - (32 - (ds.length + 1)) = ds.length by omega]
      simp
    · rw [if_neg h, ih (by omega) (j + 1) (by omega)]
      by_cases h2 : 32 - ds.length ≤ j + 1
      · rw [if_pos h2, if_pos (by omega), show j + 1 - (32 - ds.length) = j - (32 - (ds.length + 1)) by omega,
          List.getD_append _ _ _ _ (by omega)]
      · rw [if_neg h2, if_neg (by omega)]

/-- The digits of the block made of 32 digits are those digits, the first leftmost (00_scope.md R15). -/
theorem nib_joinNibs (ds : List Nibble) (hl : ds.length = 32) (j : Nat) (hj : j < 32) : nib (joinNibs ds) j = ds.getD j 0 := by
  rw [nib_joinNibs_back ds (by omega) j hj, hl]
  simp

/-! ### Characters -/

theorem hexval_hexchar : ∀ d : Nibble, hexval (hexchar d) = some d := by decide

theorem hexval_hyphen : hexval hyphen = none := by decide

/-! ### Words of wide registers -/

theorem part128_getLsbD (v : Block) (q i : Nat) :
    (part128 v q).getLsbD i = (decide (i < 32) && v.getLsbD (96 - 32 * q + i)) := by
  simp [part128]

theorem part128_setPart128 (v : Block) (x : Word) (q r : Fin 4) :
    part128 (setPart128 v q.val x) r.val = if r = q then x else part128 v r.val := by
  apply BitVec.eq_of_getLsbD_eq
  intro i hi
  rw [part128_getLsbD]
  unfold setPart128
  rw [getLsbD_words4]
  have h1 : ¬ 64 + i < 32 ∧ ¬ 64 + i < 64 ∧ 64 + i < 96 := by omega
  have h2 : ¬ 96 + i < 32 ∧ ¬ 96 + i < 64 ∧ ¬ 96 + i < 96 := by omega
  have h3 : ¬ 32 + i < 32 ∧ 32 + i < 64 := by omega
  fin_cases q <;> fin_cases r <;> simp [hi, h1.1, h1.2.1, h1.2.2, h2.1, h2.2.1, h2.2.2, h3.1, h3.2]

theorem block_of_parts (v : Block) : (part128 v 0 ++ part128 v 1 ++ part128 v 2 ++ part128 v 3 : BitVec 128) = v := by
  apply BitVec.eq_of_getLsbD_eq
  intro i hi
  rw [getLsbD_words4]
  simp only [part128_getLsbD]
  split
  · simp [*]
  split
  · simp [show i - 32 < 32 by omega, show 32 + (i - 32) = i by omega]
  split
  · simp [show i - 64 < 32 by omega, show 64 + (i - 64) = i by omega]
  · simp [show i - 96 < 32 by omega, show 96 + (i - 96) = i by omega]

theorem hi64_append (x y : Word) : hi64 (x ++ y) = x := by
  apply BitVec.eq_of_getLsbD_eq
  intro i hi
  simp only [hi64, BitVec.getLsbD_extractLsb', hi, decide_true, Bool.true_and]
  rw [getLsbD_words2, if_neg (by omega), Nat.add_sub_cancel_left]

theorem lo64_append (x y : Word) : lo64 (x ++ y) = y := by
  apply BitVec.eq_of_getLsbD_eq
  intro i hi
  simp only [lo64, BitVec.getLsbD_extractLsb', hi, decide_true, Bool.true_and]
  rw [getLsbD_words2, if_pos (by omega), Nat.zero_add]

theorem hi64_lo64 (v : Dword) : (hi64 v ++ lo64 v : BitVec 64) = v := by
  apply BitVec.eq_of_getLsbD_eq
  intro i hi
  rw [getLsbD_words2]
  split
  · simp [lo64, *]
  · simp [hi64, show i - 32 < 32 by omega, show 32 + (i - 32) = i by omega]

theorem byteIn_getLsbD (x : Word) (j i : Nat) :
    (byteIn x j).getLsbD i = (decide (i < 8) && x.getLsbD (24 - 8 * j + i)) := by
  simp [byteIn]

/-- Byte `j` of a word made of four bytes is the `j`-th of them. -/
theorem byteIn_bytes (a b c d : Byte) :
    byteIn (a ++ b ++ c ++ d) 0 = a ∧ byteIn (a ++ b ++ c ++ d) 1 = b ∧
    byteIn (a ++ b ++ c ++ d) 2 = c ∧ byteIn (a ++ b ++ c ++ d) 3 = d := by
  refine ⟨?_, ?_, ?_, ?_⟩ <;> (apply BitVec.eq_of_getLsbD_eq; intro i hi) <;>
    rw [byteIn_getLsbD, getLsbD_bytes4]
  · simp [hi, show ¬ 24 + i < 8 by omega, show ¬ 24 + i < 16 by omega, show ¬ 24 + i < 24 by omega]
  · simp [hi, show ¬ 16 + i < 8 by omega, show ¬ 16 + i < 16 by omega, show 16 + i < 24 by omega]
  · simp [hi, show ¬ 8 + i < 8 by omega, show 8 + i < 16 by omega]
  · simp [hi]

/-- A word is its four bytes. -/
theorem word_of_bytes (x : Word) : (byteIn x 0 ++ byteIn x 1 ++ byteIn x 2 ++ byteIn x 3 : BitVec 32) = x := by
  apply BitVec.eq_of_getLsbD_eq
  intro i hi
  rw [getLsbD_bytes4]
  simp only [byteIn_getLsbD]
  split
  · simp [*]
  split
  · simp [show i - 8 < 8 by omega, show 8 + (i - 8) = i by omega]
  split
  · simp [show i - 16 < 8 by omega, show 16 + (i - 16) = i by omega]
  · simp [show i - 24 < 8 by omega, show 24 + (i - 24) = i by omega]

/-- Byte `k mod 4` of word `k div 4` of a register file of bytes is entry `k` (20_memory.md R44, R45). -/
theorem byteIn_packBytes {n : Nat} (v : Vector Byte n) (k : Nat) :
    byteIn (packBytes v (k / 4)) (k % 4) = v[k]?.getD 0 := by
  have h := byteIn_bytes (v[4 * (k / 4)]?.getD 0) (v[4 * (k / 4) + 1]?.getD 0) (v[4 * (k / 4) + 2]?.getD 0)
    (v[4 * (k / 4) + 3]?.getD 0)
  unfold packBytes
  have hk : k % 4 = 0 ∨ k % 4 = 1 ∨ k % 4 = 2 ∨ k % 4 = 3 := by omega
  rcases hk with hk | hk | hk | hk <;> rw [hk]
  · rw [h.1, show 4 * (k / 4) = k by omega]
  · rw [h.2.1, show 4 * (k / 4) + 1 = k by omega]
  · rw [h.2.2.1, show 4 * (k / 4) + 2 = k by omega]
  · rw [h.2.2.2, show 4 * (k / 4) + 3 = k by omega]

theorem setPackedBytes_get {n : Nat} (v : Vector Byte n) (q : Nat) (x : Word) (k : Nat) (hk : k < n) :
    (setPackedBytes v q x)[k] = if k / 4 = q then byteIn x (k % 4) else v[k] := by
  simp [setPackedBytes]

/-- A word of a register file of bytes, read back after a write (20_memory.md R44). -/
theorem packBytes_setPackedBytes {n : Nat} (v : Vector Byte n) (q r : Nat) (x : Word) (hr : 4 * r + 3 < n) :
    packBytes (setPackedBytes v q x) r = if r = q then x else packBytes v r := by
  unfold packBytes
  simp only [Vector.getElem?_eq_getElem (show 4 * r < n by omega), Vector.getElem?_eq_getElem (show 4 * r + 1 < n by omega),
    Vector.getElem?_eq_getElem (show 4 * r + 2 < n by omega), Vector.getElem?_eq_getElem hr, Option.getD_some,
    setPackedBytes_get, show 4 * r / 4 = r by omega, show (4 * r + 1) / 4 = r by omega, show (4 * r + 2) / 4 = r by omega,
    show (4 * r + 3) / 4 = r by omega, show 4 * r % 4 = 0 by omega, show (4 * r + 1) % 4 = 1 by omega,
    show (4 * r + 2) % 4 = 2 by omega, show (4 * r + 3) % 4 = 3 by omega]
  by_cases h : r = q
  · simp only [h, if_true, word_of_bytes]
  · simp only [h, if_false]

end Sys2Proof.Machine
end

