-- ==== Sys2Proof/Laws/RegMap.lean ====
section
/-! SUPPORT. The map of 20_memory.md R43 read in both directions: from a word index to its location and back. -/

namespace Sys2Proof.Machine

/-- A named location stands at its index. -/
theorem locate_idx (l : Loc) (i : Index) (h : l.idx = some i) : locate i = l := by
  cases l <;> simp only [Loc.idx, Option.some.injEq] at h <;> first | (subst h; rfl) | skip
  case keyIn q => subst h; revert q; decide
  case schWIn q => subst h; revert q; decide
  case w q => subst h; revert q; decide
  case blk q => subst h; revert q; decide
  case hexbuf q => subst h; revert q; decide
  case tokOut q => subst h; revert q; decide
  case recHi q => subst h; revert q; decide
  case recLo q => subst h; revert q; decide
  case unmapped => cases h

/-- The location at an index is unmapped, or its index is that one. -/
theorem idx_locate : ∀ i : Index, locate i = .unmapped ∨ (locate i).idx = some i := by decide

/-- No two indices name one location. -/
theorem locate_inj {i j : Index} (h : locate i = locate j) (hm : locate i ≠ .unmapped) : i = j := by
  have hi := (idx_locate i).resolve_left hm
  have hj := (idx_locate j).resolve_left (h ▸ hm)
  rw [h] at hi
  exact Option.some.inj (hi.symm.trans hj)

/-- What a write to a data location leaves alone: every register the host cannot write, and the model's own fields
(20_memory.md R42(c), R43). -/
theorem Loc.write_frame (v : Word) (s : State) (l : Loc) :
    (l.write v s).STATE = s.STATE ∧ (l.write v s).ERR = s.ERR ∧ (l.write v s).NF = s.NF ∧ (l.write v s).W = s.W ∧
    (l.write v s).PRE = s.PRE ∧ (l.write v s).INDEX = s.INDEX ∧ (l.write v s).POST = s.POST ∧
    (l.write v s).HEXBUF = s.HEXBUF ∧ (l.write v s).HEXCNT = s.HEXCNT ∧ (l.write v s).TOK_OUT = s.TOK_OUT ∧
    (l.write v s).host = s.host ∧ (l.write v s).seen = s.seen ∧ (l.write v s).draws = s.draws := by
  cases l <;> simp [Loc.write]

/-- What a location reads does not depend on the values already observed. -/
@[simp] theorem Loc.read_seen (s : State) (ws : List Word) (l : Loc) : Loc.read { s with seen := ws } l = Loc.read s l := by
  cases l <;> rfl

end Sys2Proof.Machine
end

