-- ==== Sys2Proof/Laws/Assembler.lean ====
section
/-! SUPPORT. What the reads of the notation join to, and the claims of a program over its parts (30_encoding.md R63). -/

namespace Sys2Proof.Machine

@[simp] theorem rd64_pay (s : State) : rd64 .pay s = s.PAY := hi64_lo64 _

@[simp] theorem rd64_record (k : Fin 16) (s : State) : rd64 (.record k) s = s.REC[k] := hi64_lo64 _

@[simp] theorem rd128_keyIn (s : State) : rd128 .keyIn s = s.KEY_IN := block_of_parts _

@[simp] theorem rd128_blk (s : State) : rd128 .blk s = s.BLK := block_of_parts _

@[simp] theorem rd128_hexbuf (s : State) : rd128 .hexbuf s = s.HEXBUF := block_of_parts _

/-- The 36 bytes read are the token text (20_memory.md R45). -/
@[simp] theorem rdText_eq_tokOut (s : State) : rdText s = s.TOK_OUT.toList := by
  have h9 : List.finRange 9 = [0, 1, 2, 3, 4, 5, 6, 7, 8] := by decide
  unfold rdText joinText textWords
  rw [h9]
  apply List.ext_getElem
  · simp [wordBytes]
  · intro k h1 h2
    have hk : k < 36 := by simpa using h2
    have hb := byteIn_packBytes s.TOK_OUT k
    rw [Vector.getElem?_eq_getElem hk, Option.getD_some] at hb
    rw [show s.TOK_OUT.toList[k] = s.TOK_OUT[k] by simp, ← hb]
    simp only [List.map_cons, List.map_nil, List.flatten_cons, List.flatten_nil, wordBytes, Loc.read, List.cons_append,
      List.nil_append]
    clear hb h2
    interval_cases k <;> rfl

/-- Reading a list of words observes their values in order and changes nothing else (20_memory.md R41). -/
theorem serveAll_reads (is : List Index) (s : State) :
    serveAll (is.map HostEvent.read) s = .next { s with seen := s.seen ++ is.map (portRead s) } := by
  induction is generalizing s with
  | nil => simp [serveAll]
  | cons i is ih =>
    rw [List.map_cons, serveAll_cons_of_next (t := observeRead i s) rfl, ih]
    simp [observeRead, State.setSeen, portRead]

theorem assemble_append (p q : List Stmt) : assemble (p ++ q) = assemble p ++ assemble q := by simp [assemble]

/-- The claims of a program are those of its first part, on the words that part read, and those of the rest. -/
theorem programClaims_append (p q : List Stmt) (ws : List Word) :
    programClaims (p ++ q) ws
      = (programClaims p (ws.take (p.map Stmt.reads).sum) && programClaims q (ws.drop (p.map Stmt.reads).sum)) := by
  induction p generalizing ws with
  | nil => simp [programClaims]
  | cons st p ih => simp [programClaims, ih, Bool.and_assoc, List.take_take, List.drop_take, List.drop_drop]

end Sys2Proof.Machine
end

