-- ==== Sys2Proof/Laws/ChecksumEngine.lean ====
section
/-! SUPPORT. Bit by bit: the window of the diffusion pass and its write-back (42_checksumengine.md R93), and what stripping and
bringing to 32 bits do to the value (R94 to R96). -/

namespace Sys2Proof.Machine

/-- Bit `k` of the window at `i` is bit `i + k` of the buffer, and 0 past position 63. -/
theorem window_getMsbD (working : Dword) (i k : Nat) :
    (window working i).getMsbD k = (decide (k < 32) && decide (i + k < 64) && working.getMsbD (i + k)) := by
  simp only [window, BitVec.getMsbD_eq_getLsbD, BitVec.getLsbD_extractLsb', BitVec.getLsbD_shiftLeft]
  by_cases hk : k < 32
  · by_cases hik : i + k < 64
    · simp [hk, hik, show 31 - k < 32 by omega, show 32 + (31 - k) < 64 by omega,
        show ¬ 32 + (31 - k) < i by omega, show 32 + (31 - k) - i = 63 - (i + k) by omega]
    · simp [hk, hik, show 32 + (31 - k) < i by omega]
  · simp [hk]

/-- A window's value laid at `i`: bit `j` of the buffer is its bit `j - i`. -/
theorem placeWindow_getMsbD (x : Word) (i j : Nat) :
    (placeWindow x i).getMsbD j = (decide (j < 64) && decide (i ≤ j) && decide (j < i + 32) && x.getMsbD (j - i)) := by
  by_cases hj : j < 64
  · simp only [placeWindow, BitVec.getMsbD_eq_getLsbD, BitVec.getLsbD_ushiftRight]
    show (decide (j < 64) && @BitVec.getLsbD (32 + 32) (x ++ 0#32) (i + (64 - 1 - j))) = _
    rw [BitVec.getLsbD_append]
    by_cases h1 : i ≤ j
    · by_cases h2 : j < i + 32
      · simp [hj, h1, h2, show ¬ i + (63 - j) < 32 by omega, show j - i < 32 by omega,
          show i + (63 - j) - 32 = 31 - (j - i) by omega]
      · simp [hj, h1, h2, show i + (63 - j) < 32 by omega]
    · have h3 : x.getLsbD (i + (64 - 1 - j) - 32) = false := BitVec.getLsbD_of_ge _ _ (by omega)
      rw [h3]
      simp [h1]
  · simp [BitVec.getMsbD_eq_getLsbD, hj]

theorem writeWindow_getMsbD (working : Dword) (i : Nat) (x : Word) (j : Nat) (hj : j < 64) :
    (writeWindow working i x).getMsbD j =
      if i ≤ j ∧ j < i + 32 then x.getMsbD (j - i) else working.getMsbD j := by
  simp only [writeWindow, BitVec.getMsbD_or, BitVec.getMsbD_and, BitVec.getMsbD_not, placeWindow_getMsbD, hj, decide_true,
    Bool.true_and]
  by_cases h : i ≤ j ∧ j < i + 32
  · have h2 : (BitVec.allOnes 32).getMsbD (j - i) = true := by
      rw [BitVec.getMsbD_eq_getLsbD, BitVec.getLsbD_allOnes]
      simp
      omega
    rw [if_pos h, h2]
    simp [h.1, h.2]
  · rw [if_neg h]
    have : (decide (i ≤ j) && decide (j < i + 32)) = false := by simpa using h
    simp [this]

/-- The value of a bit string does not change when its leading zeros are stripped (42_checksumengine.md R94). -/
theorem strip_toNat {n : Nat} (v : BitVec n) : (strip v).toNat = v.toNat := by
  have h : v.toNat < 2 ^ bitlen v := by
    unfold bitlen
    split
    · simp [*]
    · exact Nat.lt_log2_self
  rw [strip, BitVec.toNat_setWidth, Nat.mod_eq_of_lt h]

end Sys2Proof.Machine
end

