-- ==== Sys2Proof/Laws/CipherMixer.lean ====
section
/-! SUPPORT. The three parts of a masked block (43_ciphermixer.md R106), and that a block is its three parts. -/

namespace Sys2Proof.Machine

theorem tokenParts_head (c : Word) (p : Dword) (z : Word) : (c ++ p ++ z : BitVec 128).extractLsb' 96 32 = c := by
  apply BitVec.eq_of_getLsbD_eq
  intro i hi
  rw [BitVec.getLsbD_extractLsb', getLsbD_tokenParts, if_neg (by omega), if_neg (by omega), Nat.add_sub_cancel_left]
  simp [hi]

theorem tokenParts_body (c : Word) (p : Dword) (z : Word) : (c ++ p ++ z : BitVec 128).extractLsb' 32 64 = p := by
  apply BitVec.eq_of_getLsbD_eq
  intro i hi
  rw [BitVec.getLsbD_extractLsb', getLsbD_tokenParts, if_neg (by omega), if_pos (by omega), Nat.add_sub_cancel_left]
  simp [hi]

theorem tokenParts_tail (c : Word) (p : Dword) (z : Word) : (c ++ p ++ z : BitVec 128).extractLsb' 0 32 = z := by
  apply BitVec.eq_of_getLsbD_eq
  intro i hi
  rw [BitVec.getLsbD_extractLsb', getLsbD_tokenParts, if_pos (by omega), Nat.zero_add]
  simp [hi]

/-- Two blocks with equal parts are equal. -/
theorem block_ext_parts {a b : Block} (h : a.extractLsb' 96 32 = b.extractLsb' 96 32)
    (m : a.extractLsb' 32 64 = b.extractLsb' 32 64) (t : a.extractLsb' 0 32 = b.extractLsb' 0 32) : a = b := by
  apply BitVec.eq_of_getLsbD_eq
  intro i hi
  by_cases h1 : i < 32
  · have := congrArg (fun v => v.getLsbD i) t
    simpa [h1] using this
  by_cases h2 : i < 96
  · have := congrArg (fun v => v.getLsbD (i - 32)) m
    simpa [show i - 32 < 64 by omega, show 32 + (i - 32) = i by omega] using this
  · have := congrArg (fun v => v.getLsbD (i - 96)) h
    simpa [show i - 96 < 32 by omega, show 96 + (i - 96) = i by omega] using this

theorem mask_head (wf : Word → Block) (c : Word) (p : Dword) :
    (mask wf c p).extractLsb' 96 32 = c ^^^ (wf c).extractLsb' 96 32 := tokenParts_head _ _ _

theorem mask_body (wf : Word → Block) (c : Word) (p : Dword) :
    (mask wf c p).extractLsb' 32 64 = p ^^^ (wf c).extractLsb' 32 64 := tokenParts_body _ _ _

theorem mask_tail (wf : Word → Block) (c : Word) (p : Dword) : (mask wf c p).extractLsb' 0 32 = c := tokenParts_tail _ _ _

end Sys2Proof.Machine
end

