-- ==== Sys2Proof/Laws/Decode.lean ====
section
/-! SUPPORT. The fields of a command word (30_encoding.md R55). -/

namespace Sys2Proof

theorem commandWord_getLsbD (arg op : Byte) (i : Nat) :
    (commandWord arg op).getLsbD i = if i < 8 then op.getLsbD i else if i < 16 then arg.getLsbD (i - 8) else false := by
  show @BitVec.getLsbD (16 + 8 + 8) (0#16 ++ arg ++ op) i = _
  rw [BitVec.getLsbD_append, BitVec.getLsbD_append]
  simp only [Nat.sub_sub]
  repeat' split
  all_goals first | rfl | omega | simp

theorem opOf_commandWord (arg op : Byte) : opOf (commandWord arg op) = op := by
  apply BitVec.eq_of_getLsbD_eq
  intro i hi
  rw [opOf, BitVec.getLsbD_extractLsb', commandWord_getLsbD, if_pos (by omega)]
  simp [hi]

theorem argOf_commandWord (arg op : Byte) : argOf (commandWord arg op) = arg := by
  apply BitVec.eq_of_getLsbD_eq
  intro i hi
  rw [argOf, BitVec.getLsbD_extractLsb', commandWord_getLsbD, if_neg (by omega), if_pos (by omega), Nat.add_sub_cancel_left]
  simp [hi]

theorem zeroOf_commandWord (arg op : Byte) : zeroOf (commandWord arg op) = 0 := by
  apply BitVec.eq_of_getLsbD_eq
  intro i hi
  rw [zeroOf, BitVec.getLsbD_extractLsb', commandWord_getLsbD, if_neg (by omega), if_neg (by omega)]
  simp

/-- A word is its three fields. -/
theorem word_of_fields (w : Word) (h : zeroOf w = 0) : w = commandWord (argOf w) (opOf w) := by
  apply BitVec.eq_of_getLsbD_eq
  intro i hi
  rw [commandWord_getLsbD]
  split
  · simp [opOf, *]
  split
  · simp [argOf, show i - 8 < 8 by omega, show 8 + (i - 8) = i by omega]
  · have := congrArg (fun v => v.getLsbD (i - 16)) h
    simpa [zeroOf, show i - 16 < 16 by omega, show 16 + (i - 16) = i by omega] using this

end Sys2Proof
end

