-- ==== Sys2Proof/Laws/Formatter.lean ====
section
/-! SUPPORT. The token text as a list of characters, and the digits it holds (44_formatter.md R115, R116). -/

namespace Sys2Proof.Machine

theorem toToken_get (b : Block) (t : Fin 36) : (toToken b)[t] = tokenChar b t.val := by simp [toToken]

theorem toToken_toList (b : Block) : (toToken b).toList = (List.range 36).map (tokenChar b) := by
  apply List.ext_getElem
  · simp
  · intro k h1 h2
    simp [toToken]

/-- The hex characters of a token text are the 32 digits of its block, in order: the hyphens are dropped. -/
theorem hexDigits_toToken (b : Block) : hexDigits (toToken b).toList = (List.range 32).map (nib b) := by
  rw [toToken_toList, show List.range 36 = List.range 9 ++ (List.range 9).map (· + 9) ++ (List.range 9).map (· + 18)
    ++ (List.range 9).map (· + 27) from by decide]
  rw [show List.range 32 = List.range 8 ++ (List.range 8).map (· + 8) ++ (List.range 8).map (· + 16)
    ++ (List.range 8).map (· + 24) from by decide]
  simp [hexDigits, tokenChar, isHyphenAt, digitAt, hexval_hyphen, hexval_hexchar, List.range_succ]

end Sys2Proof.Machine
end

