-- ==== Sys2Proof/Laws/PerInstr.lean ====
section
/-! SUPPORT. The family RoundTrip: each command decodes from its own word (30_encoding.md R56, R62). -/

namespace Sys2Proof.Laws.RoundTrip

/-- The word of a command decodes to that command. -/
def Statement (i : Instr) : Prop := Sys2Proof.decode (Sys2Proof.encode i) = .command i

theorem nop : Statement .nop := rfl
theorem init : Statement .init := rfl
theorem inite : Statement .inite := rfl
theorem validate : Statement .validate := rfl
theorem encode : Statement .encode := rfl
theorem decode : Statement .decode := rfl
theorem pack : Statement .pack := rfl
theorem unpack : Statement .unpack := rfl
theorem compute : Statement .compute := rfl
theorem verify : Statement .verify := rfl
theorem mask : Statement .mask := rfl
theorem unmask : Statement .unmask := rfl
theorem format : Statement .format := rfl
theorem parse : Statement .parse := rfl
theorem txclr : Statement .txclr := rfl
theorem putc (c : Byte) : Statement (.putc c) := by
  have h : ∀ c : Byte, Sys2Proof.decode (Sys2Proof.encode (.putc c)) = .command (.putc c) := by decide +kernel
  exact h c

end Sys2Proof.Laws.RoundTrip
end

