-- ==== Sys2Proof/Laws/SchemaCodec.lean ====
section
/-! SUPPORT. Laws of schemas and of the payload's layout (40_schemacodec.md R70 to R73). -/

namespace Sys2Proof.Machine

theorem validate_iff (n : Nat) (w : List Nat) :
    validate n w = true ↔ n ≤ 16 ∧ (∀ x ∈ w.take n, 1 ≤ x) ∧ 1 ≤ (w.take n).sum ∧ (w.take n).sum ≤ 16 := by
  simp [validate, and_assoc]

@[simp] theorem widthList_length (w : Vector Byte 16) : (widthList w).length = 16 := by simp [widthList]

@[simp] theorem recordList_length (r : Vector Dword 16) : (recordList r).length = 16 := by simp [recordList]

theorem widthList_getD (w : Vector Byte 16) (k : Fin 16) : (widthList w).getD k.val 0 = (w[k]).toNat := by
  simp [widthList, List.getD_eq_getElem?_getD]

theorem recordList_getD (r : Vector Dword 16) (k : Fin 16) : (recordList r).getD k.val 0 = (r[k]).toNat := by
  simp [recordList, List.getD_eq_getElem?_getD]

/-! ### Offsets (R71) -/

theorem off_succ (w : List Nat) (k : Nat) : off w (k + 1) = off w k + widthAt w k := by
  unfold off widthAt
  by_cases h : k < w.length
  · rw [List.take_succ_eq_append_getElem h]
    simp [List.getD_eq_getElem?_getD, h]
  · rw [List.take_of_length_le (by omega), List.take_of_length_le (by omega)]
    simp [List.getD_eq_getElem?_getD, List.getElem?_eq_none (by omega : w.length ≤ k)]

theorem off_mono (w : List Nat) {j k : Nat} (h : j ≤ k) : off w j ≤ off w k := by
  induction k with
  | zero => simp [Nat.le_zero.mp h]
  | succ k ih =>
    by_cases hk : j = k + 1
    · rw [hk]
    · have := ih (by omega)
      rw [off_succ]
      omega

/-- In a schema whose widths sum to at most 16, field `k` and what lies right of it reach exactly to the right end. -/
theorem sh_add (w : List Nat) {n k : Nat} (hs : off w n ≤ 16) (hk : k < n) :
    sh w k + 4 * widthAt w k = 64 - 4 * off w k ∧ sh w k = 64 - 4 * off w (k + 1) := by
  have h1 := off_mono w (show k + 1 ≤ n from hk)
  have h2 := off_succ w k
  unfold sh
  omega

/-! ### The packed sum (R72) -/

/-- The sum of the first `n` fields in place: `pack` before it is brought to 64 bits. -/
def packSum (w record : List Nat) : Nat → Nat
  | 0 => 0
  | n + 1 => packSum w record n + fieldValue w n (record.getD n 0) * 2 ^ sh w n

theorem pack_eq (n : Nat) (w record : List Nat) : pack n w record = BitVec.ofNat 64 (packSum w record n) := by
  have h : ((List.range n).map fun k => fieldValue w k (record.getD k 0) * 2 ^ sh w k).sum = packSum w record n := by
    induction n with
    | zero => rfl
    | succ n ih =>
      rw [List.range_succ, List.map_append, List.sum_append, ih]
      simp [packSum]
  rw [pack, h]

theorem fieldValue_lt (w : List Nat) (k v : Nat) : fieldValue w k v < 2 ^ (4 * widthAt w k) := by
  have : (16 : Nat) ^ widthAt w k = 2 ^ (4 * widthAt w k) := by rw [Nat.pow_mul]
  unfold fieldValue
  rw [this]
  exact Nat.mod_lt _ (Nat.two_pow_pos _)

/-- The fields packed so far fill whole digits from the left: what is right of them is 0. -/
theorem packSum_dvd (w record : List Nat) {n : Nat} (hs : off w n ≤ 16) :
    2 ^ (64 - 4 * off w n) ∣ packSum w record n := by
  induction n with
  | zero => exact Nat.dvd_zero _
  | succ n ih =>
    have hm := off_mono w (show n ≤ n + 1 by omega)
    have hsh := (sh_add w hs (show n < n + 1 by omega)).2
    rw [packSum, ← hsh]
    refine Nat.dvd_add ?_ (Nat.dvd_mul_left _ _)
    exact Nat.dvd_trans (Nat.pow_dvd_pow 2 (by omega)) (ih (by omega))

/-- One more field stays below the digit the fields before it end at. -/
theorem field_in_place_lt (w record : List Nat) {n : Nat} (hs : off w (n + 1) ≤ 16) :
    fieldValue w n (record.getD n 0) * 2 ^ sh w n < 2 ^ (64 - 4 * off w n) := by
  have h := (sh_add w hs (show n < n + 1 by omega)).1
  rw [← h, Nat.pow_add, Nat.mul_comm (2 ^ sh w n)]
  exact Nat.mul_lt_mul_of_pos_right (fieldValue_lt w n _) (Nat.two_pow_pos _)

theorem packSum_lt (w record : List Nat) {n : Nat} (hs : off w n ≤ 16) : packSum w record n < 2 ^ 64 := by
  have key : packSum w record n + 2 ^ (64 - 4 * off w n) ≤ 2 ^ 64 := by
    induction n with
    | zero => simp [packSum, off]
    | succ n ih =>
      have hm := off_mono w (show n ≤ n + 1 by omega)
      have h1 := ih (by omega)
      have h2 := sh_add w hs (show n < n + 1 by omega)
      rw [packSum, ← h2.2]
      have h3 : fieldValue w n (record.getD n 0) * 2 ^ sh w n + 2 ^ sh w n ≤ 2 ^ (64 - 4 * off w n) := by
        rw [← h2.1, Nat.pow_add, Nat.mul_comm (2 ^ sh w n), ← Nat.succ_mul]
        exact Nat.mul_le_mul_right _ (fieldValue_lt w n _)
      omega
  have := Nat.two_pow_pos (64 - 4 * off w n)
  omega

theorem pack_toNat (w record : List Nat) {n : Nat} (hs : off w n ≤ 16) : (pack n w record).toNat = packSum w record n := by
  rw [pack_eq, BitVec.toNat_ofNat, Nat.mod_eq_of_lt (packSum_lt w record hs)]

end Sys2Proof.Machine
end

