-- ==== Sys2Proof/Laws/Step.lean ====
section
/-! SUPPORT. One step, and runs of steps. -/

namespace Sys2Proof.Machine

theorem step_of_cons {s : State} {e : HostEvent} {rest : List HostEvent} (h : s.host = e :: rest) :
    step s = serve e { s with host := rest } := by
  show serveNext s = _
  simp only [serveNext, h]
  rfl

theorem step_of_nil {s : State} (h : s.host = []) : step s = .next s := by
  show serveNext s = _
  simp only [serveNext, h]

/-- A run of any machine continues from the state its first step answers. -/
theorem core_run_succ (M : Host.Core) {s t : M.State} (h : M.step s = .next t) (k : Nat) : M.run (k + 1) s = M.run k t := by
  simp only [Host.Core.run, h]

theorem run_succ_of_next {s t : State} (h : step s = .next t) (k : Nat) :
    Host.Core.run Sys2Proof.core (k + 1) s = Host.Core.run Sys2Proof.core k t :=
  core_run_succ Sys2Proof.core h k

/-- The ends serving an event can come to: a data access or reset, a command, an illegal word, or a refused bus access. -/
theorem serve_cases (e : HostEvent) (s : State) :
    (∃ idx, serve e s = .next { s with seen := s.seen ++ [portRead s idx] }) ∨
    (∃ idx v, (e = .write idx v ∨ ∃ a, bridgeIndex a 4 = some idx ∧ e = .busWrite a 4 v) ∧ locate idx ≠ .cmd ∧
      serve e s = .next ((locate idx).write v s)) ∨
    (∃ w, (e = .write 0x00 w ∨ e = .busWrite 0 4 w) ∧
      ((∃ i, decode w = .command i ∧ serve e s = exec i s) ∨
        (∃ why, decode w = .illegal why ∧ serve e s = .next { s with ERR := 6 }))) ∨
    (e = .reset ∧ serve e s = .next { State.reset with host := s.host, seen := s.seen, draws := s.draws }) ∨
    (e.forwarded = false ∧ ∃ r, serve e s = .refused r) := by
  have hcmd : ∀ idx : Index, locate idx = .cmd → idx = 0 := by decide
  have hw : ∀ idx v, (∃ t, locate idx ≠ .cmd ∧ portWrite idx v s = .next t ∧ t = (locate idx).write v s) ∨
      (idx = 0 ∧ ((∃ i, decode v = .command i ∧ portWrite idx v s = exec i s) ∨
        (∃ why, decode v = .illegal why ∧ portWrite idx v s = .next { s with ERR := 6 }))) := by
    intro idx v
    by_cases h : locate idx = .cmd
    · refine .inr ⟨hcmd idx h, ?_⟩
      cases hd : decode v with
      | command i =>
        refine .inl ⟨i, rfl, ?_⟩
        simp [portWrite, h, command, hd]
      | illegal why =>
        refine .inr ⟨why, rfl, ?_⟩
        simp [portWrite, h, command, hd, illegalCommand, fail, ErrCode.code, State.setERR]
    · refine .inl ⟨_, h, ?_, rfl⟩
      unfold portWrite
      revert h
      generalize locate idx = l
      intro h
      cases l <;> first | rfl | exact absurd rfl h
  cases e with
  | read idx => exact .inl ⟨idx, rfl⟩
  | write idx v =>
    refine .inr ?_
    rcases hw idx v with ⟨t, h, e, rfl⟩ | ⟨rfl, h⟩
    · exact .inl ⟨idx, v, .inl rfl, h, e⟩
    · exact .inr (.inl ⟨v, .inl rfl, h⟩)
  | busRead a b =>
    cases hb : bridgeIndex a b with
    | none => exact .inr (.inr (.inr (.inr ⟨by simp [HostEvent.forwarded, hb], .busAccessNotForwarded a b, by simp only [serve, hb]⟩)))
    | some idx => exact .inl ⟨idx, by simp only [serve, hb]; rfl⟩
  | busWrite a b v =>
    cases hb : bridgeIndex a b with
    | none => exact .inr (.inr (.inr (.inr ⟨by simp [HostEvent.forwarded, hb], .busAccessNotForwarded a b, by simp only [serve, hb]⟩)))
    | some idx =>
      have hidx := hb
      unfold bridgeIndex at hidx
      split at hidx
      next hc =>
        obtain ⟨rfl, hc1, hc2⟩ := hc
        refine .inr ?_
        have hs : serve (.busWrite a 4 v) s = portWrite idx v s := by simp only [serve, hb]
        rw [hs]
        rcases hw idx v with ⟨t, h, e, rfl⟩ | ⟨rfl, h⟩
        · exact .inl ⟨idx, v, .inr ⟨a, hb, rfl⟩, h, e⟩
        · refine .inr (.inl ⟨v, .inr ?_, h⟩)
          have h0 : BitVec.ofNat 7 (a / 4) = 0 := Option.some.inj hidx
          have h1 := congrArg BitVec.toNat h0
          simp only [BitVec.toNat_ofNat, BitVec.ofNat_eq_ofNat] at h1
          have : a = 0 := by omega
          rw [this]
      next => cases hidx
  | reset => exact .inr (.inr (.inr (.inl ⟨rfl, rfl⟩)))

end Sys2Proof.Machine
end

