-- ==== Sys2Proof/Tests/Slice0.lean ====
section
/-! SUPPORT. Tests, with expected values from spec/ (30_encoding.md R56, R63; 95_test_vectors.md), and a witness for the hypotheses
of each statement. -/

namespace Sys2Proof.Tests

open Sys2Proof.Machine

/-! ### Helpers -/

/-- The bytes of a text. -/
def text (s : String) : Text := s.toList.map fun c => BitVec.ofNat 8 c.toNat

/-- The next state of a result. -/
def after (r : Result) : Option State :=
  match r with
  | .next s => some s
  | .fault _ => none
  | .refused _ => none

/-- The test whitening of 95_test_vectors.md section 1. -/
def testW (c : Word) : Block := c.rotateLeft 8 ++ ~~~c ++ c.rotateLeft 16 ++ c

/-- The test key of 95_test_vectors.md section 1. -/
def testKey : Block := 0x00112233445566778899AABBCCDDEEFF#128

/-- The schema of 95_test_vectors.md section 2 (GUID §8). -/
def testWidths : Vector Byte 16 := #v[2, 4, 4, 4, 1, 1, 0, 0, 0, 0, 0, 0, 0, 0, 0, 0]

/-- The record of 95_test_vectors.md section 2 (GUID §8). -/
def testRecord : Vector Dword 16 := #v[1, 0x7b, 0xc, 1, 0, 6, 0xdeadbeef, 0, 0, 0, 0, 0, 0, 0, 0, 0]

/-- Staged with the test schema and key, not initialised. -/
def staged : State := { State.reset with SCH_NF_IN := 6, SCH_W_IN := testWidths, KEY_IN := testKey, REC := testRecord }

/-- Staged with a schema whose sum is 17. -/
def stagedBad : State := { State.reset with SCH_NF_IN := 2, SCH_W_IN := (Vector.replicate 16 0).set 0 8 |>.set 1 9 }

/-- Initialised with the test schema and key. -/
def ready : State :=
  { staged with STATE := .ready, NF := 6, W := testWidths, PRE := 0x00112233, INDEX := 0xc4556677, POST := 0x8899aabb }

/-! ### Decoding: words written out from 30_encoding.md R55 and R56 (zero ++ arg ++ op) -/

theorem test_decode_nop : decode 0b0000000000000000_00000000_00000000#32 = .command .nop := by decide
theorem test_decode_init : decode 0b0000000000000000_00000000_00000001#32 = .command .init := by decide
theorem test_decode_inite : decode 0b0000000000000000_00000000_00000010#32 = .command .inite := by decide
theorem test_decode_validate : decode 0b0000000000000000_00000000_00000011#32 = .command .validate := by decide
theorem test_decode_encode : decode 0b0000000000000000_00000000_00010000#32 = .command .encode := by decide
theorem test_decode_decode : decode 0b0000000000000000_00000000_00010001#32 = .command .decode := by decide
theorem test_decode_pack : decode 0b0000000000000000_00000000_00100000#32 = .command .pack := by decide
theorem test_decode_unpack : decode 0b0000000000000000_00000000_00100001#32 = .command .unpack := by decide
theorem test_decode_compute : decode 0b0000000000000000_00000000_00100010#32 = .command .compute := by decide
theorem test_decode_verify : decode 0b0000000000000000_00000000_00100011#32 = .command .verify := by decide
theorem test_decode_mask : decode 0b0000000000000000_00000000_00100100#32 = .command .mask := by decide
theorem test_decode_unmask : decode 0b0000000000000000_00000000_00100101#32 = .command .unmask := by decide
theorem test_decode_format : decode 0b0000000000000000_00000000_00100110#32 = .command .format := by decide
theorem test_decode_parse : decode 0b0000000000000000_00000000_00100111#32 = .command .parse := by decide
theorem test_decode_txclr : decode 0b0000000000000000_00000000_00110000#32 = .command .txclr := by decide
theorem test_decode_putc : decode 0b0000000000000000_01000001_00110001#32 = .command (.putc 0x41) ∧
    decode 0x00000031#32 = .command (.putc 0) ∧ decode 0x0000ff31#32 = .command (.putc 0xff) := by decide

/-- 95_test_vectors.md section 3.7, the illegal words. -/
theorem test_decode_illegal :
    ([0x00000004, 0x00000012, 0x00000028, 0x00000032, 0x000000ff] : List Word).map decode
      = List.replicate 5 (.illegal .unknownOp) ∧
    ([0x00000100, 0x00000110, 0x0000ff30] : List Word).map decode = List.replicate 3 (.illegal .argSet) ∧
    ([0x00010000, 0x00010001, 0x00014131, 0x80000001, 0xffffffff] : List Word).map decode
      = List.replicate 5 (.illegal .zeroFieldSet) := by decide +kernel

theorem test_decode_table_word : decodeTableWord 32 0x4131 = some (.putc 0x41) ∧ decodeTableWord 32 0x12 = none ∧
    decodeTableWord 64 0 = none ∧ decodeTableWord 8 1 = some .init := by decide

/-! ### WellFormed: each check refuses a term -/

theorem test_wf_zero_field : CommandWord.wellFormed 0x00010001#32 = false ∧ CommandWord.zeroFieldClear 0x00010001#32 = false := by
  decide
theorem test_wf_opcode : CommandWord.wellFormed 0x00000012#32 = false ∧ CommandWord.opKnown 0x00000012#32 = false := by decide
theorem test_wf_argument : CommandWord.wellFormed 0x00000101#32 = false ∧ CommandWord.argAllowed 0x00000101#32 = false := by decide
theorem test_wf_accepts : CommandWord.wellFormed 0x00004131#32 = true ∧ CommandWord.wellFormed 0x00000027#32 = true := by decide
theorem test_wf_statement : Stmt.wellFormed (.wr .unmapped 0) = false ∧ Stmt.wellFormed (.rd .unmapped) = false ∧
    Stmt.wellFormed (.expect .unmapped 0) = false ∧ Stmt.wellFormed (.wr128 .hexbuf 0) = false ∧
    Stmt.wellFormed (.schema (List.replicate 17 1)) = false ∧ Stmt.wellFormed (.schema [256]) = false ∧
    Stmt.wellFormed (.expectText (text "0123")) = false := by decide

/-! ### The port and the bridge (95_test_vectors.md section 3.8, program P3) -/

theorem test_port_write_stores_five_bits :
    (after (portWrite 0x08 0xffffffff State.reset)).map (portRead · 0x08) = some 0x1f := by decide
theorem test_port_write_read_only_ignored : after (portWrite 0x10 5 ready) = some ready ∧ after (portWrite 0x3f 1 ready) = some ready := by
  decide
theorem test_illegal_word : (after (portWrite 0x00 0x00000012 ready)).map (fun t => (t.ERR, t.REC)) = some (6, testRecord) := by
  decide
theorem test_bridge_refuses : bridgeIndex 0x7e 4 = none ∧ bridgeIndex 0x7c 2 = none ∧ bridgeIndex 512 4 = none ∧
    bridgeIndex 0x7c 4 = some 0x1f := by decide
theorem test_schema_statement : (Stmt.schema [2, 4, 4, 4, 1, 1]).expand = [.write 0x08 6, .write 0x0c 0x02040404,
    .write 0x0d 0x01010000, .write 0x0e 0, .write 0x0f 0] := by decide
/-- 95_test_vectors.md section 3.8 (REC[3]) and program P3 line 58; the halves swapped are not the value read. -/
theorem test_expect : programHolds [.wr (.recHi 3) 0x89abcdef, .wr (.recLo 3) 0x01234567, .rd (.recLo 3),
      .expect64 (.record 3) 0x89abcdef01234567, .expectIdx 0x3f 0] State.reset = true ∧
    programHolds [.wr (.recHi 3) 0x89abcdef, .wr (.recLo 3) 0x01234567, .expect64 (.record 3) 0x0123456789abcdef] State.reset
      = false := by decide
/-- The words and the text of program P1 lines 33 to 41, and the block of its state. -/
theorem test_joined_values :
    programValues [.rdtext, .cmd .nop, .rd128 .blk] [0x31313333, 0x31313333, 0x2d373636, 0x362d3265, 0x34342d61, 0x3662622d,
        0x38393966, 0x38383939, 0x61616262, 0x11331133, 0x76662e44, 0xa6bb899f, 0x8899aabb]
      = [.text (text "11331133-7666-2e44-a6bb-899f8899aabb"), .block 0x1133113376662e44a6bb899f8899aabb] := by decide
theorem test_with_fetch_word : (after (step (State.reset.withFetchWord 32 0x12))).map (·.ERR) = some 6 := by decide

/-! ### One step of each command (95_test_vectors.md section 3) -/

theorem test_nop : after (exec .nop { ready with ERR := 5 }) = some ready := by decide

theorem test_init : (after (exec .init staged)).map (fun t => (t.STATE, t.ERR, t.NF, t.W)) = some (.ready, 0, 6, testWidths) ∧
    (after (exec .init staged)).map (fun t => (t.PRE, t.INDEX, t.POST)) = some (0x00112233, 0xc4556677, 0x8899aabb) := by decide
theorem test_init_fails : (initialise .uninit 0 { stagedBad with STATE := .ready, PRE := 7 }).finish
      = { stagedBad with PRE := 7, ERR := 1 } ∧
    (initialise .unchanged 0 { stagedBad with STATE := .ready, PRE := 7 }).finish
      = { stagedBad with STATE := .ready, PRE := 7, ERR := 1 } := by decide

theorem test_inite_draw : (fun t : State => (t.PRE, t.INDEX, t.POST, t.draws))
    (initialise .uninit 0x0123456789abcdef0011223344556677 (takeDraw staged)).finish
      = (0x01234567, 0x89abcdef, 0x00112233, 1) := by decide
theorem test_inite_forces_top_bit : (fun t : State => (t.PRE, t.INDEX, t.POST))
    (initialise .uninit 0xffffffff7fffffffffffffff00000000 (takeDraw staged)).finish
      = (0xffffffff, 0xffffffff, 0xffffffff) := by decide

theorem test_validate : (after (exec .validate { ready with SCH_W_IN := testWidths.set 9 200 })).map (·.ERR) = some 0 ∧
    (after (exec .validate stagedBad)).map (·.ERR) = some 1 := by decide
theorem test_validate_bounds :
    (after (exec .validate { staged with SCH_NF_IN := 17, SCH_W_IN := Vector.replicate 16 1 })).map (·.ERR) = some 1 ∧
    (after (exec .validate { staged with SCH_NF_IN := 16, SCH_W_IN := Vector.replicate 16 1 })).map (·.ERR) = some 0 ∧
    (after (exec .validate { staged with SCH_NF_IN := 0 })).map (·.ERR) = some 1 ∧
    (after (exec .validate { staged with SCH_NF_IN := 2, SCH_W_IN := (Vector.replicate 16 0).set 0 255 |>.set 1 1 })).map (·.ERR)
      = some 1 := by decide

theorem test_pack : (after (exec .pack ready)).map (·.PAY) = some 0x01007b000c000106 := by decide
theorem test_pack_truncates : (after (exec .pack { ready with
      NF := 2, W := (Vector.replicate 16 0).set 0 3 |>.set 1 5, REC := testRecord.set 0 0xfabc |>.set 1 0xf12345 })).map (·.PAY)
    = some 0xabc1234500000000 := by decide

theorem test_unpack : (after (exec .unpack { ready with PAY := 0x01017b000c000106 })).map (·.REC)
    = some (testRecord.set 1 0x17b) := by decide
theorem test_unpack_ignores_padding : (after (exec .unpack { ready with
      NF := 2, W := (Vector.replicate 16 0).set 0 3 |>.set 1 5, PAY := 0xabc12345deadbeef })).map (·.REC)
    = some (testRecord.set 0 0xabc |>.set 1 0x12345) := by decide

theorem test_compute : (after (exec .compute { ready with PAY := 0x01007b000c000106 })).map (·.CHK) = some 0x8899aabb := by
  decide +kernel
/-- Rows 2, 3, 8 and 9 of the table of section 3.4. -/
theorem test_compute_function :
    compute 0 0x04c11db7 0 0x8000000000000000 = 0xa2008c20 ∧
    compute 0x11111111 0x04c11db7 0xffffffff 0x01007b000c000106 = 0x3118bb65 ∧
    compute 0 0x7fffffff 0 0x0000000100000000 = 0x80000001 ∧
    compute 0x01007b00 0x12345678 0xcafef00d 0x01007b000c000106 = 0xc77adeef := by decide +kernel

theorem test_verify : (after (exec .verify { ready with CHK := 0x8899aabb })).map (·.ERR) = some 0 ∧
    (after (exec .verify { ready with CHK := 0x8899aaba })).map (·.ERR) = some 5 := by decide +kernel
theorem test_verify_uninitialized : (after (exec .verify staged)).map (·.ERR) = some 2 := by decide

theorem test_mask : mask testW 0x8899aabb 0x01007b000c000106 = 0x1133113376662e44a6bb899f8899aabb ∧
    mask testW 0xdeadbeef 0x01007b000c000106 = 0x7313513120523a10b2efdfabdeadbeef := by decide
theorem test_mask_stage : (stageMask testW { ready with CHK := 0x12345678 }).finish
    = { ready with CHK := 0x12345678, BLK := 0x26622e6aedcba9875678123412345678 } := by decide

theorem test_unmask_stage : (stageUnmask testW { ready with BLK := 0x1133113376672e44a6bb899f8899aabb }).finish
    = { ready with BLK := 0x1133113376672e44a6bb899f8899aabb, CHK := 0x8899aabb, PAY := 0x01017b000c000106 } := by decide
theorem test_unmask : unmask testW 0x1133113276662e44a6bb899f8899aabb = none ∧
    unmask testW 0x1133113376662e44a6bb899f8998abba = some (0x8998abba, 0x00017a010d010007) ∧
    unmask testW 0 = some (0, 0xffffffff00000000) := by decide

theorem test_format : (after (exec .format { ready with BLK := 0x1133113376662e44a6bb899f8899aabb })).map (·.TOK_OUT.toList)
    = some (text "11331133-7666-2e44-a6bb-899f8899aabb") := by decide +kernel
theorem test_format_words : (after (exec .format { ready with BLK := 0x0123456789abcdef0123456789abcdef })).map
      (fun t => (portRead t 0x28, portRead t 0x2a, portRead t 0x30)) = some (0x30313233, 0x2d383961, 0x63646566) := by decide +kernel

theorem test_txclr : after (exec .txclr { ready with HEXBUF := 0xa0, HEXCNT := 33 }) = some ready := by decide

theorem test_putc : (after (exec (.putc 0x41) ready)).map (fun t => (t.HEXBUF, t.HEXCNT)) = some (0xa0000000000000000000000000000000, 1) ∧
    (after (exec (.putc 0x37) { ready with HEXCNT := 31 })).map (fun t => (t.HEXBUF, t.HEXCNT)) = some (7, 32) ∧
    (after (exec (.putc 0x37) { ready with HEXCNT := 33 })).map (fun t => (t.HEXBUF, t.HEXCNT)) = some (0, 33) := by decide
/-- The bytes of section 3.6 that are dropped. -/
theorem test_putc_drops : ∀ c ∈ ([0x67, 0x47, 0x40, 0x60, 0x2f, 0x3a, 0x00, 0xff, 0x20, 0x2d] : List Byte),
    after (exec (.putc c) ready) = some ready := by decide

theorem test_parse : (after (exec .parse { ready with HEXBUF := 9, HEXCNT := 32 })).map (fun t => (t.BLK, t.ERR)) = some (9, 0) ∧
    (after (exec .parse { ready with HEXBUF := 9, HEXCNT := 31 })).map (fun t => (t.BLK, t.ERR)) = some (0, 3) := by decide
theorem test_parse_function :
    parse (text "0x1234567-89ab-cdef-0123-456789abcdef") = some 0x0123456789abcdef0123456789abcdef ∧
    parse (text "0123456789ABCDEF0123456789ABCDEF") = some 0x0123456789abcdef0123456789abcdef ∧
    parse (text "urn:uuid:01234567-89ab-cdef-0123-456789abcdef") = none := by decide +kernel

theorem test_encode : (fun t : State => (t.PAY, t.CHK, t.BLK, t.ERR)) (encodeStages testW ready).finish
    = (0x01007b000c000106, 0x8899aabb, 0x1133113376662e44a6bb899f8899aabb, 0) := by decide +kernel
theorem test_encode_uninitialized : after (exec .encode staged) = some { staged with ERR := 2 } := by decide

theorem test_decode : (fun t : State => (t.REC, t.ERR))
    (decodeStages testW { ready with HEXBUF := 0x1133113376672e44a6bb899f8899aabb, HEXCNT := 32 }).finish
      = (testRecord.set 1 0x17b, 0) := by decide +kernel
theorem test_decode_failures :
    (decodeStages testW { ready with HEXBUF := 0x1133113376662e44a6bb899f8998abba, HEXCNT := 32 }).finish
      = { ready with HEXBUF := 0x1133113376662e44a6bb899f8998abba, HEXCNT := 32, BLK := 0x1133113376662e44a6bb899f8998abba,
                     CHK := 0x8998abba, PAY := 0x00017a010d010007, ERR := 5 } ∧
    (decodeStages testW { ready with HEXBUF := 0x1133113276662e44a6bb899f8899aabb, HEXCNT := 32 }).finish
      = { ready with HEXBUF := 0x1133113276662e44a6bb899f8899aabb, HEXCNT := 32, BLK := 0x1133113276662e44a6bb899f8899aabb,
                     ERR := 4 } ∧
    (decodeStages testW { ready with HEXCNT := 33 }).finish = { ready with HEXCNT := 33, ERR := 3 } := by decide +kernel

/-! ### The integer form and the key (95_test_vectors.md sections 3.3 and 3.4) -/

theorem test_diffuse_int : diffuseInt 0x10116a110c000106 0x04c11db7 = 0x108decdccee7449a ∧
    diffuse 0x10116a110c000106 0x04c11db7 = 0x108decdccee7449a := by decide +kernel
theorem test_derive : derive128 0x00112233745566778899aabbccddeeff = ⟨0x00112233, 0xf4556677, 0x8899aabb⟩ := by decide
theorem test_normalise : normaliseWith (fun _ => 1) (text "00112233445566778899aabbccddeeff") = .key testKey ∧
    normaliseWith (fun _ => 1) (text "00112233445566778899aabbccddeef-") = .key 1 ∧
    normaliseWith (fun _ => 1) [] = .ephemeral := by decide +kernel

/-- Before the first Initialize there are no names, Encode fails and Decode fails with 2 (45_toplevel.md section 4, R141, R142). -/
theorem test_driver_initial : Driver.initial.names = [] ∧
    (∃ d, Driver.encode Driver.initial [(text "a", 1)] = .next (none, d)) ∧
    ∃ d, Driver.decode Driver.initial (text "0-") = .next (.inl 2, d) := ⟨rfl, ⟨_, rfl⟩, ⟨_, rfl⟩⟩

/-! ### Witnesses: a state and operands that meet the hypotheses of each statement, clause by clause -/

/-- Right results of Driver.initializeWith. -/
def succeeded (o : Host.Outcome (Bool × Driver) Fault Refusal) : Bool :=
  match o with
  | .next (b, _) => b
  | .fault _ => false
  | .refused _ => false

theorem eq_of_succeeded (o : Host.Outcome (Bool × Driver) Fault Refusal) (h : succeeded o = true) : ∃ d, o = .next (true, d) := by
  match o with
  | .next (true, d) => exact ⟨d, rfl⟩
  | .next (false, _) => cases h
  | .fault _ => cases h
  | .refused _ => cases h

/-- A block whose two copies of the checksum 0 agree, under the unknown whitening. -/
def agreeing : Block := mask Config.whiten 0 0

/-- A block whose two copies of the checksum 0 differ, under the unknown whitening. -/
def differing : Block := (1 ^^^ (Config.whiten 0).extractLsb' 96 32) ++ 0#64 ++ 0#32

theorem agreeing_copies : agreeing.extractLsb' 0 32
    = agreeing.extractLsb' 96 32 ^^^ (Config.whiten (agreeing.extractLsb' 0 32)).extractLsb' 96 32 := by
  unfold agreeing
  rw [mask_tail, mask_head, BitVec.xor_assoc, BitVec.xor_self]
  rfl

theorem differing_copies : differing.extractLsb' 0 32
    ≠ differing.extractLsb' 96 32 ^^^ (Config.whiten (differing.extractLsb' 0 32)).extractLsb' 96 32 := by
  unfold differing
  rw [tokenParts_tail, tokenParts_head, show (0#32 : Word) = 0 from rfl, BitVec.xor_assoc, BitVec.xor_self]
  decide

theorem ready_inv : ready.Inv where
  schema_valid := fun _ => by decide
  index_top := fun _ => by decide
  hexcnt_le := by decide
  hexbuf_rest := fun j _ _ => nib_zero j
  err_le := by decide
  nf_le := by decide

theorem witness_IllegalWordSetsErrSix : (∃ why, decode 0x00000032#32 = .illegal why) ∧
    (staged.withFetchWord 32 0x32).host = .write 0x00 0x00000032#32 :: [] := ⟨⟨.unknownOp, by decide⟩, by decide⟩

theorem witness_StepRunsDecodedCommand : (staged.withFetchWord 32 0xff31).host = .write 0x00 0x0000ff31#32 :: [] ∧
    decode 0x0000ff31#32 = .command (.putc 0xff) := by decide

theorem witness_ReadsAndIdlingChangeNoRegister : ({ staged with host := [.read 0x7f] } : State).host = .read 0x7f :: [] ∧
    staged.host = [] := by decide

theorem witness_PortReadFollowsTheMap : ∀ n ∈ [0x09, 0x0b, 0x11, 0x13, 0x1b, 0x1d, 0x31, 0x3f, 0x60, 0x7f],
    unmappedIndex (BitVec.ofNat 7 n) = true := by decide
/-- The mapped indices beside them. -/
theorem witness_mapped_indices : ∀ n ∈ [0x00, 0x08, 0x0c, 0x10, 0x14, 0x1a, 0x1c, 0x1e, 0x30, 0x40, 0x5f],
    unmappedIndex (BitVec.ofNat 7 n) = false := by decide

theorem witness_DataWriteChangesOnlyItsLocation : (0x01 : Index) ≠ 0x00 ∧ (0x7f : Index) ≠ 0x00 := by decide

theorem witness_WideWritesReplaceTheRegister : (Stmt.schema (List.replicate 16 255)).wellFormed = true ∧
    (Stmt.schema []).wellFormed = true := by decide

theorem witness_RunServesEventsInOrder :
    serveAll [.write 0x1c 5, .read 0x1c] { staged with host := [.read 0x00] }
      = .next { staged with CHK := 5, seen := [5], host := [.read 0x00] } := rfl

theorem witness_BridgeForwardsAlignedWordsOnly : ((2 : Nat) ≠ 4 ∨ 0 % 4 ≠ 0) ∧ ((4 : Nat) ≠ 4 ∨ 511 % 4 ≠ 0) := by decide

theorem witness_ResetInputTakesResetValues : ({ ready with host := [.reset] } : State).host = .reset :: [] := by decide

theorem witness_EveryStepKeepsTheInvariant : ready.Inv ∧ step ready = .next ready := ⟨ready_inv, step_of_nil rfl⟩

theorem witness_StateMachineTransitions : stagedValid staged = true ∧ stagedValid stagedBad = false ∧
    (Instr.decode ≠ .init ∧ Instr.decode ≠ .inite) ∧ exec .nop ready = .next ready ∧
    (∃ t, portWrite 0x01 0 ready = .next t) := ⟨by decide, by decide, by decide, rfl, _, rfl⟩

theorem witness_ConfigurationChangesOnlyInInit : ∃ t, step (staged.withFetchWord 32 1) = .next t ∧ t.NF ≠ staged.NF :=
  ⟨_, rfl, by decide⟩

theorem witness_CommandsChangeOnlyTheirRegisters : (∃ t, exec .parse ready = .next t ∧ t.ERR ≠ 0) ∧
    Instr.parse ≠ .init ∧ Instr.parse ≠ .inite ∧ Instr.parse ≠ .decode ∧ Reg.BLK ≠ .ERR ∧ Reg.REC ∉ mayWrite .parse ∧
    ready.NF.toNat ≤ (6 : Fin 16).val := ⟨⟨_, rfl, by decide⟩, by decide⟩

theorem witness_UninitializedIsTestedFirst : staged.STATE = .uninitialized ∧
    Instr.decode ∈ [Instr.pack, .unpack, .compute, .verify, .encode, .decode] ∧
    Instr.putc 0 ∉ [Instr.pack, .unpack, .compute, .verify, .encode, .decode] := by decide

theorem witness_EachCodeHasItsCause : ∃ t, exec .decode { ready with HEXCNT := 33 } = .next t ∧ t.ERR = 3 := ⟨_, rfl, by decide⟩

theorem witness_RetryFailsAlike : ∃ t, exec .encode staged = .next t ∧ t.ERR ≠ 0 := ⟨_, rfl, by decide⟩

theorem witness_InitReplacesConfiguration :
    validate staged.SCH_NF_IN.toNat (widthList staged.SCH_W_IN) = true ∧
    validate stagedBad.SCH_NF_IN.toNat (widthList stagedBad.SCH_W_IN) = false := by decide

theorem witness_IniteUsesTheDraw :
    validate staged.SCH_NF_IN.toNat (widthList staged.SCH_W_IN) = true ∧
    validate stagedBad.SCH_NF_IN.toNat (widthList stagedBad.SCH_W_IN) = false := by decide

theorem witness_ValidSchemaBounds : 16 ≤ (List.replicate 16 1).length ∧ validate 16 (List.replicate 16 1) = true := by decide

theorem witness_PackLaysOutTheRecord : staged.STATE = .uninitialized ∧ ready.STATE = .ready ∧ activeSchemaValid ready = true ∧
    (5 : Fin 16).val < ready.NF.toNat := by decide

theorem witness_UnpackSlicesThePayload : staged.STATE = .uninitialized ∧ ready.STATE = .ready := by decide

theorem witness_PackAndUnpackAreInverse : 2 ≤ [3, 5].length ∧ validate 2 [3, 5] = true ∧
    ∀ k < 2, [0xfabc, 0xf12345].getD k 0 % 16 ^ [3, 5].getD k 0 = [0xabc, 0x12345].getD k 0 % 16 ^ [3, 5].getD k 0 := by decide

theorem witness_NormaliseCases : ((text "00112233445566778899aabbccddeeff").length = 32 ∧
      ∀ b ∈ text "00112233445566778899aabbccddeeff", (hexval b).isSome = true) ∧
    (text "key" ≠ [] ∧ (text "key").length ≠ 32) ∧
    ((text "00112233445566778899aabbccddeef-").length = 32 ∧
      ∃ b ∈ text "00112233445566778899aabbccddeef-", hexval b = none) := by
  refine ⟨by decide +kernel, by decide +kernel, by decide +kernel, 0x2d, by decide +kernel⟩

theorem witness_ComputeWritesTheChecksum : staged.STATE = .uninitialized ∧ ready.STATE = .ready := by decide

theorem witness_VerifyComparesTheChecksum : staged.STATE = .uninitialized ∧ ready.STATE = .ready ∧
    compute ready.PRE ready.INDEX ready.POST ready.PAY ≠ ready.CHK ∧
    compute ready.PRE ready.INDEX ready.POST ready.PAY = ({ ready with CHK := 0x8899aabb } : State).CHK := by decide +kernel

theorem witness_ScanXorsTheWindowInPlace : (0 : Nat) < 64 ∧ (63 : Nat) < 64 := by decide
theorem witness_IntegerFormEqualsWindowForm : (32 : Nat) < 64 ∧ (33 : Nat) < 64 := by decide

theorem witness_ForcedTopBitCollapsesTheChecksum : (0x80000000#32).getLsbD 31 = true ∧ ready.Inv ∧ ready.STATE = .ready :=
  ⟨by decide, ready_inv, rfl⟩

theorem witness_UnmaskChecksTheCopies :
    (differing.extractLsb' 0 32
      ≠ differing.extractLsb' 96 32 ^^^ (Config.whiten (differing.extractLsb' 0 32)).extractLsb' 96 32) ∧
    agreeing.extractLsb' 0 32
      = agreeing.extractLsb' 96 32 ^^^ (Config.whiten (agreeing.extractLsb' 0 32)).extractLsb' 96 32 :=
  ⟨differing_copies, agreeing_copies⟩

theorem witness_MaskAndUnmaskLaws : mask testW 5 6 = mask testW 5 6 := rfl

theorem witness_FormatWritesTheTokenText : ∀ n ∈ [0, 7, 9, 12, 14, 17, 19, 22, 24, 35],
    n < 36 ∧ n ≠ 8 ∧ n ≠ 13 ∧ n ≠ 18 ∧ n ≠ 23 := by decide

theorem witness_ParseOfTokenText : hexval hyphen = none ∧ 0x41 ≤ (0x41#8).toNat ∧ (0x41#8).toNat ≤ 0x46 ∧
    0x41 ≤ (0x46#8).toNat ∧ (0x46#8).toNat ≤ 0x46 ∧ toToken (mask testW 0 0) = toToken (mask testW 0 0) :=
  ⟨by decide, by decide, by decide, by decide, by decide, rfl⟩

theorem witness_PutcCollectsHexDigits : hexval 0x2d = none ∧ hexval 0x46 = some 15 ∧
    ({ ready with HEXCNT := 31 } : State).HEXCNT.toNat < 32 ∧ ¬ ({ ready with HEXCNT := 32 } : State).HEXCNT.toNat < 32 ∧
    31 ≠ ready.HEXCNT.toNat := by decide

theorem witness_ParseNeeds32Digits : ({ ready with HEXCNT := 33 } : State).HEXCNT ≠ 32 ∧
    ({ ready with HEXCNT := 32 } : State).HEXCNT = 32 := by decide

theorem witness_StreamingEqualsParse : parse (text "01234567-89ab-cdef-0123-456789abcdef") = some 0x0123456789abcdef0123456789abcdef ∧
    parse (text "01234567-89ab-cdef-0123-456789abcde") = none := by decide +kernel

theorem witness_EncodeRunsFourStages : staged.STATE = .uninitialized ∧ ready.STATE = .ready := by decide

theorem witness_EncodeProducesMaskedPost : ready.Inv ∧ ready.STATE = .ready := ⟨ready_inv, rfl⟩

theorem witness_DecodeCommitsStageByStage : staged.STATE = .uninitialized ∧
    (ready.STATE = .ready ∧ ready.HEXCNT ≠ 32) ∧
    (let s : State := { ready with HEXCNT := 32, HEXBUF := differing }
     s.STATE = .ready ∧ s.HEXCNT = 32 ∧ s.HEXBUF.extractLsb' 0 32
       ≠ s.HEXBUF.extractLsb' 96 32 ^^^ (Config.whiten (s.HEXBUF.extractLsb' 0 32)).extractLsb' 96 32) ∧
    (let s : State := { ready with HEXCNT := 32, HEXBUF := agreeing }
     s.STATE = .ready ∧ s.HEXCNT = 32 ∧ s.HEXBUF.extractLsb' 0 32
       = s.HEXBUF.extractLsb' 96 32 ^^^ (Config.whiten (s.HEXBUF.extractLsb' 0 32)).extractLsb' 96 32) :=
  ⟨rfl, ⟨rfl, by decide⟩, ⟨rfl, rfl, differing_copies⟩, ⟨rfl, rfl, agreeing_copies⟩⟩
/-- The last two branches: of the agreeing block, the checksum 0 differs from the recomputed one under the test key and equals it
under a key of zeros. -/
theorem witness_DecodeCommitsStageByStage_checksum :
    (let s : State := { ready with HEXCNT := 32, HEXBUF := agreeing }
     compute s.PRE s.INDEX s.POST (agreeing.extractLsb' 32 64 ^^^ (Config.whiten (agreeing.extractLsb' 0 32)).extractLsb' 32 64)
       ≠ agreeing.extractLsb' 0 32) ∧
    (let s : State := { ready with HEXCNT := 32, HEXBUF := agreeing, PRE := 0, INDEX := 0x80000000, POST := 0 }
     compute s.PRE s.INDEX s.POST (agreeing.extractLsb' 32 64 ^^^ (Config.whiten (agreeing.extractLsb' 0 32)).extractLsb' 32 64)
       = agreeing.extractLsb' 0 32) := by
  have hp : agreeing.extractLsb' 32 64 ^^^ (Config.whiten (agreeing.extractLsb' 0 32)).extractLsb' 32 64 = 0 := by
    unfold agreeing
    rw [mask_tail, mask_body, BitVec.xor_assoc, BitVec.xor_self]
    rfl
  have hc : agreeing.extractLsb' 0 32 = 0 := mask_tail _ _ _
  rw [hp, hc]
  decide +kernel

/-- The block ENCODE makes of a payload 0, entered whole. -/
def entered : State := { ready with HEXBUF := mask Config.whiten 0x8899aabb 0, HEXCNT := 32 }

theorem entered_inv : entered.Inv where
  schema_valid := fun _ => by decide
  index_top := fun _ => by decide
  hexcnt_le := by decide
  hexbuf_rest := fun j h1 h2 => absurd h2 (Nat.not_lt.mpr h1)
  err_le := by decide
  nf_le := by decide

theorem witness_DecodeAcceptsExactlyMaskedPost : entered.Inv ∧ entered.STATE = .ready ∧ (∃ t, exec .decode entered = .next t) ∧
    entered.HEXBUF = mask Config.whiten entered.POST 0 := ⟨entered_inv, rfl, ⟨_, rfl⟩, rfl⟩

theorem witness_TextRoundTrip : ready.Inv ∧ ready.STATE = .ready := ⟨ready_inv, rfl⟩

/-- Heads, tails and payloads that differ from those of the block that DECODE accepts. -/
theorem witness_TamperDetectionByPart : entered.Inv ∧ entered.STATE = .ready ∧ entered.HEXCNT = 32 ∧
    (∀ p : Dword, ∃ head : Word, ∃ b : Block, b.extractLsb' 0 96 = (mask Config.whiten entered.POST p).extractLsb' 0 96 ∧
      b.extractLsb' 96 32 = head ∧ head ≠ (mask Config.whiten entered.POST p).extractLsb' 96 32) ∧
    (0#128).extractLsb' 0 32 ≠ (mask Config.whiten entered.POST 0).extractLsb' 0 32 ∧
    (mask Config.whiten entered.POST 1).extractLsb' 96 32 = (mask Config.whiten entered.POST 0).extractLsb' 96 32 ∧
    (mask Config.whiten entered.POST 1).extractLsb' 0 32 = (mask Config.whiten entered.POST 0).extractLsb' 0 32 := by
  refine ⟨entered_inv, rfl, rfl, fun p => ?_, ?_, ?_, ?_⟩
  · refine ⟨(mask Config.whiten entered.POST p).extractLsb' 96 32 ^^^ 1,
      ((mask Config.whiten entered.POST p).extractLsb' 96 32 ^^^ 1) ++ (mask Config.whiten entered.POST p).extractLsb' 32 64
        ++ (mask Config.whiten entered.POST p).extractLsb' 0 32, ?_, tokenParts_head _ _ _, ?_⟩
    · apply BitVec.eq_of_getLsbD_eq
      intro i hi
      rw [BitVec.getLsbD_extractLsb', BitVec.getLsbD_extractLsb', getLsbD_tokenParts, Nat.zero_add]
      by_cases h : i < 32
      · simp [h, hi]
      · simp [h, hi, show i - 32 < 64 by omega, show 32 + (i - 32) = i by omega]
    · intro h
      have h0 := congrArg (fun x => (mask Config.whiten entered.POST p).extractLsb' 96 32 ^^^ x) h
      simp only [← BitVec.xor_assoc, BitVec.xor_self] at h0
      exact absurd h0 (by decide)
  · rw [mask_tail]; decide
  · rw [mask_head, mask_head]
  · rw [mask_tail, mask_tail]

theorem witness_DriverInitializeVerdict :
    ¬ (([([1], .int 2), ([1], .int 3)] : SchemaArg).map Prod.fst).Nodup ∧
    (([([1], .int 2), ([2], .int 3)] : SchemaArg).map Prod.fst).Nodup := by decide

theorem witness_DriverRoundTrip :
    (∃ d1, Driver.initializeWith (fun _ => 0) Driver.initial [(text "a", .int 2), (text "b", .int 14)]
      (text "00112233445566778899aabbccddeeff") = .next (true, d1)) ∧
    ∀ f ∈ ([(text "a", .int 2), (text "b", .int 14)] : SchemaArg),
      (([(text "a", 255)] : Record).lookup f.1).getD 0 < 16 ^ clampWidth f.2 :=
  ⟨eq_of_succeeded _ (by decide +kernel), by decide +kernel⟩

theorem witness_ReadStatementsJoinTheRegister : (Loc.recLo 15).idx = some 0x5f ∧ (Loc.tokOut 8).idx = some 0x30 := by decide

theorem witness_ExpectHoldsExactlyOnTheValueRead : (Loc.recLo 15).idx = some 0x5f ∧
    serveAll (assemble [.wr .chk 5, .rd .chk, .cmd .nop]) staged = .next { staged with CHK := 5, seen := [5] } := ⟨by decide, rfl⟩

end Sys2Proof.Tests
end

section
/-! SUPPORT. What a command may change (10_state.md R38): the frame of every state update, of every stage and, by composing the
stages, of every command, on success and on failure apart. -/

namespace Sys2Proof.Machine

/-! ### Agreement of two states outside a list of rows -/

theorem Reg.same_refl (s : State) (r : Reg) : r.same s s := by
  cases r <;> simp [Reg.same]

theorem Reg.same_trans {s t u : State} {r : Reg} (h : r.same s t) (h' : r.same t u) : r.same s u := by
  cases r <;> simp_all [Reg.same]

/-- From `s` to `t` no row outside `rs` changed, no record past the active fields, no pending event and no observed value. -/
structure Frame (rs : List Reg) (s t : State) : Prop where
  rows : ∀ r, r ∉ rs → r.same s t
  record : ∀ k : Fin 16, s.NF.toNat ≤ k.val → t.REC[k] = s.REC[k]
  host : t.host = s.host
  seen : t.seen = s.seen

namespace Frame

variable {rs rs' : List Reg} {s t u : State}

theorem refl (s : State) : Frame [] s s := ⟨fun r _ => r.same_refl s, fun _ _ => rfl, rfl, rfl⟩

theorem mono (h : Frame rs s t) (hsub : rs ⊆ rs') : Frame rs' s t :=
  ⟨fun r hr => h.rows r fun hm => hr (hsub hm), h.record, h.host, h.seen⟩

/-- Two changes in a row. The records that stay are those of the first state: the first change keeps the number of active
fields, or the second keeps every record. -/
theorem trans (h : Frame rs s t) (hREC : .cfg ∉ rs ∨ .REC ∉ rs') (h' : Frame rs' t u) : Frame (rs ++ rs') s u where
  rows r hr := by
    rw [List.mem_append, not_or] at hr
    exact Reg.same_trans (h.rows r hr.1) (h'.rows r hr.2)
  record k hk := by
    rcases hREC with hcfg | hREC
    · have hNF : t.NF = s.NF := (h.rows .cfg hcfg).1
      exact (h'.record k (hNF ▸ hk)).trans (h.record k hk)
    · have hsame : u.REC = t.REC := h'.rows .REC hREC
      exact (congrArg (·[k]) hsame).trans (h.record k hk)
  host := h'.host.trans h.host
  seen := h'.seen.trans h.seen

/-! ### One frame per state update -/

/-- A change that leaves `REC` and the model's own lists alone. -/
theorem of_rows (hREC : .REC ∉ rs) (rows : ∀ r, r ∉ rs → r.same s t) (host : t.host = s.host) (seen : t.seen = s.seen) :
    Frame rs s t :=
  ⟨rows, fun k _ => congrArg (·[k]) (rows .REC hREC), host, seen⟩

variable (s)

theorem setSTATE (v : Mode) : Frame [.STATE] s (s.setSTATE v) :=
  of_rows (by decide) (fun r hr => by cases r <;> simp [Reg.same] at hr ⊢) rfl rfl

theorem setERR (v : BitVec 4) : Frame [.ERR] s (s.setERR v) :=
  of_rows (by decide) (fun r hr => by cases r <;> simp [Reg.same] at hr ⊢) rfl rfl

theorem setConfig (nf : BitVec 5) (w : Vector Byte 16) (pre index post : Word) :
    Frame [.cfg, .keys] s (s.setConfig nf w pre index post) :=
  of_rows (by decide) (fun r hr => by cases r <;> simp [Reg.same] at hr ⊢) rfl rfl

theorem setPAY (v : Dword) : Frame [.PAY] s (s.setPAY v) :=
  of_rows (by decide) (fun r hr => by cases r <;> simp [Reg.same] at hr ⊢) rfl rfl

theorem setCHK (v : Word) : Frame [.CHK] s (s.setCHK v) :=
  of_rows (by decide) (fun r hr => by cases r <;> simp [Reg.same] at hr ⊢) rfl rfl

theorem setBLK (v : Block) : Frame [.BLK] s (s.setBLK v) :=
  of_rows (by decide) (fun r hr => by cases r <;> simp [Reg.same] at hr ⊢) rfl rfl

theorem setHEXBUF (v : Block) : Frame [.HEXBUF] s (s.setHEXBUF v) :=
  of_rows (by decide) (fun r hr => by cases r <;> simp [Reg.same] at hr ⊢) rfl rfl

theorem setHEXCNT (v : BitVec 6) : Frame [.HEXCNT] s (s.setHEXCNT v) :=
  of_rows (by decide) (fun r hr => by cases r <;> simp [Reg.same] at hr ⊢) rfl rfl

theorem setTOK_OUT (v : Vector Byte 36) : Frame [.TOK_OUT] s (s.setTOK_OUT v) :=
  of_rows (by decide) (fun r hr => by cases r <;> simp [Reg.same] at hr ⊢) rfl rfl

theorem setDraws (v : Nat) : Frame [.draws] s (s.setDraws v) :=
  of_rows (by decide) (fun r hr => by cases r <;> simp [Reg.same] at hr ⊢) rfl rfl

/-- The record register is written field by field, up to the number of active fields (10_state.md R38: `REC[0..NF-1]`). -/
theorem setREC (v : Vector Dword 16) (hv : ∀ k : Fin 16, s.NF.toNat ≤ k.val → v[k] = s.REC[k]) :
    Frame [.REC] s (s.setREC v) :=
  ⟨fun r hr => by cases r <;> simp [Reg.same] at hr ⊢, hv, rfl, rfl⟩

/-- TXCLR and PUTC write the parser registers together (10_state.md R30). -/
theorem parserRegisters (b : Block) (n : BitVec 6) : Frame [.HEXBUF, .HEXCNT] s { s with HEXBUF := b, HEXCNT := n } :=
  (setHEXBUF s b).trans (by decide) (setHEXCNT _ n)

/-- UNMASK writes both halves of what it unmasks (43_ciphermixer.md R109). -/
theorem unmaskedHalves (c : Word) (p : Dword) : Frame [.CHK, .PAY] s { s with CHK := c, PAY := p } :=
  (setCHK s c).trans (by decide) (setPAY _ p)

/-- A successful initialisation replaces configuration and `STATE` together (45_toplevel.md R132). -/
theorem activation (nf : BitVec 5) (w : Vector Byte 16) (pre index post : Word) (m : Mode) : Frame [.cfg, .keys, .STATE] s
    { s with NF := nf, W := w, PRE := pre, INDEX := index, POST := post, STATE := m } :=
  (setConfig s nf w pre index post).trans (by decide) (setSTATE _ m)

end Frame

/-! ### What a stage writes: on success and on failure -/

/-- A stage run from `s` changes at most the rows `a` when it succeeds and at most the rows `b` when it fails: the two right
columns of 10_state.md R38. -/
inductive Stage.Writes (a b : List Reg) (s : State) : Stage → Prop
  | done {t : State} : Frame a s t → Stage.Writes a b s (.done t)
  | failed {e : ErrCode} {t : State} : Frame b s t → Stage.Writes a b s (.failed e t)

/-- The stage cannot fail, and changes at most the rows `a`. -/
def Completes (a : List Reg) (f : State → Stage) : Prop := ∀ s, ∃ t, f s = .done t ∧ Frame a s t

theorem Completes.writes {a b : List Reg} {f : State → Stage} (h : Completes a f) (s : State) : (f s).Writes a b s := by
  obtain ⟨t, e, ht⟩ := h s
  exact e ▸ .done ht

namespace Stage.Writes

variable {a b a' b' : List Reg} {s : State} {r : Stage} {f : State → Stage}

theorem mono (h : r.Writes a b s) (ha : a ⊆ a') (hb : b ⊆ b') : r.Writes a' b' s := by
  cases h with
  | done h => exact .done (h.mono ha)
  | failed h => exact .failed (h.mono hb)

/-- A stage after a change. -/
theorem after {t : State} (ht : Frame a s t) (hcfg : .cfg ∉ a) (h : r.Writes a' b' t) : r.Writes (a ++ a') (a ++ b') s := by
  cases h with
  | done h => exact .done (ht.trans (.inl hcfg) h)
  | failed h => exact .failed (ht.trans (.inl hcfg) h)

/-- A stage that cannot fail, after another: what is written on failure is what the other one wrote. -/
theorem andThen_completes (h : r.Writes a b s) (hcfg : .cfg ∉ a) (hf : Completes a' f) :
    (r.andThen f).Writes (a ++ a') b s := by
  cases h with
  | failed h => exact .failed h
  | @done t h =>
    obtain ⟨u, e, hu⟩ := hf t
    rw [Stage.andThen_done, e]
    exact .done (h.trans (.inl hcfg) hu)

/-- A stage that may fail, after another: on failure what the stages before it wrote stays. -/
theorem andThen (h : r.Writes a b s) (hcfg : .cfg ∉ a) (hf : ∀ t, (f t).Writes a' b' t) :
    (r.andThen f).Writes (a ++ a') (b ++ (a ++ b')) s := by
  cases h with
  | failed h => exact .failed (h.mono (List.subset_append_left _ _))
  | done h => exact (after h hcfg (hf _)).mono (List.Subset.refl _) (List.subset_append_right _ _)

/-- The end of a command writes `ERR`: 0 on success. -/
theorem finish_cases (h : r.Writes a b s) :
    (r.finish.ERR = 0 ∧ Frame (.ERR :: a) s r.finish) ∨ Frame (.ERR :: b) s r.finish := by
  cases h with
  | done h => exact .inl ⟨rfl, (h.trans (.inr (by decide)) (.setERR _ _)).mono (by simp)⟩
  | failed h => exact .inr ((h.trans (.inr (by decide)) (.setERR _ _)).mono (by simp))

end Stage.Writes

/-! ### The stages -/

theorem stagePack_completes : Completes [.PAY] stagePack := fun s => ⟨_, rfl, .setPAY s _⟩

theorem stageUnpack_completes : Completes [.REC] stageUnpack := fun s =>
  ⟨_, rfl, .setREC s _ fun k hk => by rw [unpackedRecord_get, if_neg (Nat.not_lt.mpr hk)]⟩

theorem stageCompute_completes : Completes [.CHK] stageCompute := fun s => ⟨_, rfl, .setCHK s _⟩

theorem stageMask_completes (wf : Word → Block) : Completes [.BLK] (stageMask wf) := fun s => ⟨_, rfl, .setBLK s _⟩

theorem stageFormat_completes : Completes [.TOK_OUT] stageFormat := fun s => ⟨_, rfl, .setTOK_OUT s _⟩

theorem stageTxclr_completes : Completes [.HEXBUF, .HEXCNT] stageTxclr := fun s =>
  ⟨_, rfl, .parserRegisters s _ _⟩

theorem stagePutc_completes (c : Byte) : Completes [.HEXBUF, .HEXCNT] (stagePutc c) := fun s => by
  rcases stagePutc_cases c s with ⟨-, e⟩ | ⟨d, -, e⟩
  · exact ⟨_, e, (Frame.refl s).mono (List.nil_subset _)⟩
  · exact ⟨_, e, .parserRegisters s _ _⟩

theorem whenReady_writes (s : State) : (whenReady s).Writes [] [] s := by
  rcases s.mode_cases with hm | hm
  · exact whenReady_of_uninitialized hm ▸ .failed (.refl s)
  · exact whenReady_of_ready hm ▸ .done (.refl s)

theorem stageValidate_writes (s : State) : (stageValidate s).Writes [] [] s := by
  rcases stageValidate_cases s with ⟨-, e⟩ | ⟨-, e⟩
  · exact e ▸ .done (.refl s)
  · exact e ▸ .failed (.refl s)

theorem stageVerify_writes (s : State) : (stageVerify s).Writes [] [] s := by
  rcases stageVerify_cases s with ⟨-, e⟩ | ⟨-, e⟩
  · exact e ▸ .done (.refl s)
  · exact e ▸ .failed (.refl s)

theorem stageParse_writes (s : State) : (stageParse s).Writes [.BLK] [] s := by
  rcases stageParse_cases s with ⟨-, e⟩ | ⟨-, e⟩
  · exact e ▸ .done (.setBLK s _)
  · exact e ▸ .failed (.refl s)

theorem stageUnmask_writes (wf : Word → Block) (s : State) : (stageUnmask wf s).Writes [.CHK, .PAY] [] s := by
  rcases stageUnmask_cases wf s with ⟨-, e⟩ | ⟨-, e⟩
  · exact e ▸ .done (.unmaskedHalves s _ _)
  · exact e ▸ .failed (.refl s)

theorem initialise_writes (p : Config.InitFailState) (key : Block) (s : State) :
    (initialise p key s).Writes [.cfg, .keys, .STATE] [.STATE] s := by
  rcases initialise_cases p key s with ⟨-, e⟩ | ⟨-, e⟩
  · exact e ▸ .done (.activation s _ _ _ _ _ _)
  · exact e ▸ .failed (.setSTATE s _)

/-! ### The commands -/

/-- What a command writes beside `ERR` when it fails: the last column of 10_state.md R38, and the draw a failing INITE takes
(log entry 4). -/
def writesOnFailure : Instr → List Reg
  | .init => [.STATE]
  | .inite => [.STATE, .draws]
  | .decode => [.BLK, .CHK, .PAY]
  | _ => []

/-- `ERR`, which every command writes (10_state.md R24), heads its row. -/
theorem mayWrite_eq_cons (i : Instr) : mayWrite i = .ERR :: (mayWrite i).tail := by cases i <;> rfl

theorem cons_writesOnFailure_subset (i : Instr) : .ERR :: writesOnFailure i ⊆ mayWrite i := by
  cases i <;> simp [writesOnFailure, mayWrite]

theorem writesOnFailure_eq_nil {i : Instr} (hinit : i ≠ .init) (hinite : i ≠ .inite) (hdecode : i ≠ .decode) :
    writesOnFailure i = [] := by
  cases i <;> simp [writesOnFailure] at hinit hinite hdecode ⊢

theorem encodeStages_writes (wf : Word → Block) (s : State) :
    (encodeStages wf s).Writes [.PAY, .CHK, .BLK, .TOK_OUT] [] s :=
  ((((whenReady_writes s).andThen_completes (by decide) stagePack_completes).andThen_completes (by decide)
    stageCompute_completes).andThen_completes (by decide) (stageMask_completes wf)).andThen_completes (by decide)
    stageFormat_completes

theorem decodeStages_writes (wf : Word → Block) (s : State) :
    (decodeStages wf s).Writes [.BLK, .CHK, .PAY, .REC] [.BLK, .CHK, .PAY] s :=
  ((((whenReady_writes s).andThen (by decide) stageParse_writes).andThen (by decide) (stageUnmask_writes wf)).andThen
    (by decide) stageVerify_writes).andThen_completes (by decide) stageUnpack_completes |>.mono (by simp) (by simp)

/-- The rows of a command but `ERR` are what its stages write. -/
theorem stages_writes (i : Instr) (s : State) : (stages i s).Writes (mayWrite i).tail (writesOnFailure i) s := by
  cases i with
  | nop => exact .done (.refl s)
  | init => exact initialise_writes _ _ s
  | inite =>
    have h := (initialise_writes Config.initFailState (Config.draw s.draws) (takeDraw s)).after (.setDraws s _) (by decide)
    exact h.mono (by simp [mayWrite]) (by simp [writesOnFailure])
  | validate => exact stageValidate_writes s
  | encode => exact encodeStages_writes _ s
  | decode => exact decodeStages_writes _ s
  | pack => exact (whenReady_writes s).andThen_completes (by decide) stagePack_completes
  | unpack => exact (whenReady_writes s).andThen_completes (by decide) stageUnpack_completes
  | compute => exact (whenReady_writes s).andThen_completes (by decide) stageCompute_completes
  | verify => exact (whenReady_writes s).andThen (by decide) stageVerify_writes
  | mask => exact (stageMask_completes _).writes s
  | unmask => exact stageUnmask_writes _ s
  | format => exact stageFormat_completes.writes s
  | parse => exact stageParse_writes s
  | txclr => exact stageTxclr_completes.writes s
  | putc c => exact (stagePutc_completes c).writes s

/-- The frame of every command: its row of the table when it completes, less when it fails. -/
theorem exec_frame_cases {i : Instr} {s t : State} (h : exec i s = .next t) :
    (t.ERR = 0 ∧ Frame (mayWrite i) s t) ∨ Frame (.ERR :: writesOnFailure i) s t := by
  rw [exec_eq] at h
  obtain rfl := Host.Outcome.next.inj h
  rw [mayWrite_eq_cons]
  exact (stages_writes i s).finish_cases

theorem exec_frame {i : Instr} {s t : State} (h : exec i s = .next t) : Frame (mayWrite i) s t := by
  rcases exec_frame_cases h with ⟨-, hdone⟩ | hfailed
  · exact hdone
  · exact hfailed.mono (cons_writesOnFailure_subset i)

theorem exec_frame_of_failed {i : Instr} {s t : State} (h : exec i s = .next t) (herr : t.ERR ≠ 0) :
    Frame (.ERR :: writesOnFailure i) s t := by
  rcases exec_frame_cases h with ⟨hok, -⟩ | hfailed
  · exact absurd hok herr
  · exact hfailed

/-- Settles O20, from the frame of every command and the frame of a failed one. -/
theorem commandsChangeOnlyTheirRegisters : Obligations.CommandsChangeOnlyTheirRegisters := by
  unfold Obligations.CommandsChangeOnlyTheirRegisters
  intro i s t h
  obtain ⟨rows, record, host, seen⟩ := exec_frame h
  refine ⟨rows, fun herr hinit hinite hdecode r hr => ?_, record, host, seen⟩
  have hfailed := exec_frame_of_failed h herr
  rw [writesOnFailure_eq_nil hinit hinite hdecode] at hfailed
  exact hfailed.rows r fun hm => hr (List.mem_singleton.mp hm)

end Sys2Proof.Machine
end

section
/-! SUPPORT. The 22 hex characters (00_scope.md R16). -/

namespace Sys2Proof.Machine

/-- The two letter ranges are one rule: the low five bits of a letter of either case are its place in the alphabet. -/
theorem hexval_eq (c : Byte) : hexval c =
    if 0x30 ≤ c.toNat ∧ c.toNat ≤ 0x39 then some (BitVec.ofNat 4 (c.toNat - 0x30))
    else if (0x61 ≤ c.toNat ∧ c.toNat ≤ 0x66) ∨ (0x41 ≤ c.toNat ∧ c.toNat ≤ 0x46) then some (BitVec.ofNat 4 (c.toNat % 32 + 9))
    else none := by
  unfold hexval
  by_cases hdigit : 0x30 ≤ c.toNat ∧ c.toNat ≤ 0x39
  · rw [if_pos hdigit, if_pos hdigit]
  rw [if_neg hdigit, if_neg hdigit]
  by_cases hlower : 0x61 ≤ c.toNat ∧ c.toNat ≤ 0x66
  · rw [if_pos hlower, if_pos (.inl hlower), show c.toNat - 0x61 + 10 = c.toNat % 32 + 9 by omega]
  by_cases hupper : 0x41 ≤ c.toNat ∧ c.toNat ≤ 0x46
  · rw [if_neg hlower, if_pos hupper, if_pos (.inr hupper), show c.toNat - 0x41 + 10 = c.toNat % 32 + 9 by omega]
  · rw [if_neg hlower, if_neg hupper, if_neg (not_or.mpr ⟨hlower, hupper⟩)]

theorem hexchar_not_uppercase : ∀ d : Nibble, ¬ (0x41 ≤ (hexchar d).toNat ∧ (hexchar d).toNat ≤ 0x46) := by decide

theorem hexval_isSome_count : ((List.range 256).filter fun n => (hexval (BitVec.ofNat 8 n)).isSome).length = 22 := by
  decide +kernel

/-- Settles O47: the ranges of the bytes, the count over all 256 of them, and the sixteen digits. -/
theorem hexCharactersAreThe22Bytes : Obligations.HexCharactersAreThe22Bytes := by
  unfold Obligations.HexCharactersAreThe22Bytes
  exact ⟨hexval_eq, hexval_isSome_count, fun d => ⟨hexval_hexchar d, hexchar_not_uppercase d⟩⟩

end Sys2Proof.Machine
end

section
/-! SUPPORT. What one step can do to the registers the invariant of 10_state.md R36 speaks of, and the invariant and the active
configuration along it. -/

namespace Sys2Proof.Machine

/-! ### What one step can do -/

/-- The two states agree on `STATE`, the active configuration and the parser registers: what commands and reset alone can change,
and all the invariant reads but `ERR`. -/
structure SameControl (s t : State) : Prop where
  STATE : t.STATE = s.STATE
  cfg : Reg.cfg.same s t
  keys : Reg.keys.same s t
  HEXBUF : t.HEXBUF = s.HEXBUF
  HEXCNT : t.HEXCNT = s.HEXCNT

namespace SameControl

variable {s t : State}

theorem of_frame {rs : List Reg} (h : Frame rs s t) (hrs : ∀ r ∈ [Reg.STATE, .cfg, .keys, .HEXBUF, .HEXCNT], r ∉ rs) :
    SameControl s t where
  STATE := h.rows .STATE (hrs _ (by decide))
  cfg := h.rows .cfg (hrs _ (by decide))
  keys := h.rows .keys (hrs _ (by decide))
  HEXBUF := h.rows .HEXBUF (hrs _ (by decide))
  HEXCNT := h.rows .HEXCNT (hrs _ (by decide))

theorem refl (s : State) : SameControl s s := of_frame (.refl s) (by decide)

/-- The host's writes to data locations reach none of these registers (20_memory.md R42(c)). -/
theorem write (v : Word) (s : State) (l : Loc) : SameControl s (l.write v s) := by
  obtain ⟨hSTATE, -, hNF, hW, hPRE, hINDEX, hPOST, hHEXBUF, hHEXCNT, -⟩ := l.write_frame v s
  exact ⟨hSTATE, ⟨hNF, hW⟩, ⟨hPRE, hINDEX, hPOST⟩, hHEXBUF, hHEXCNT⟩

/-- The model's own fields are no registers. -/
theorem own_fields (s : State) (host : List HostEvent) (seen : List Word) (draws : Nat) :
    SameControl s { s with host := host, seen := seen, draws := draws } :=
  ⟨rfl, ⟨rfl, rfl⟩, ⟨rfl, rfl, rfl⟩, rfl, rfl⟩

theorem of_host {rest : List HostEvent} (h : SameControl { s with host := rest } t) : SameControl s t :=
  ⟨h.STATE, h.cfg, h.keys, h.HEXBUF, h.HEXCNT⟩

end SameControl

/-- One step runs a command, serves a reset, or keeps the registers of `SameControl`, and `ERR` too unless an illegal word sets it
to 6. -/
theorem step_cases {s t : State} (h : step s = .next t) :
    (SameControl s t ∧ (t.ERR = s.ERR ∨ t.ERR = 6)) ∨
    (∃ w i rest, (s.host = .write 0x00 w :: rest ∨ s.host = .busWrite 0 4 w :: rest) ∧ decode w = .command i ∧
      exec i { s with host := rest } = .next t) ∨
    (∃ rest, s.host = .reset :: rest ∧ t = { State.reset with host := rest, seen := s.seen, draws := s.draws }) := by
  cases hhost : s.host with
  | nil =>
    obtain rfl := Host.Outcome.next.inj ((step_of_nil hhost).symm.trans h)
    exact .inl ⟨.refl s, .inl rfl⟩
  | cons e rest =>
    rw [step_of_cons hhost] at h
    rcases serve_cases e { s with host := rest } with
      ⟨idx, he⟩ | ⟨idx, v, -, -, he⟩ | ⟨w, hw, ⟨i, hd, he⟩ | ⟨why, -, he⟩⟩ | ⟨rfl, he⟩ | ⟨-, r, he⟩
    · obtain rfl := Host.Outcome.next.inj (he.symm.trans h)
      exact .inl ⟨.own_fields s _ _ _, .inl rfl⟩
    · obtain rfl := Host.Outcome.next.inj (he.symm.trans h)
      obtain ⟨-, hERR, -⟩ := (locate idx).write_frame v { s with host := rest }
      exact .inl ⟨(SameControl.write v _ _).of_host, .inl hERR⟩
    · exact .inr (.inl ⟨w, i, rest, hw.imp (congrArg (· :: rest)) (congrArg (· :: rest)), hd, he.symm.trans h⟩)
    · obtain rfl := Host.Outcome.next.inj (he.symm.trans h)
      exact .inl ⟨(SameControl.of_frame (.setERR _ 6) (by decide)).of_host, .inr rfl⟩
    · exact .inr (.inr ⟨rest, rfl, Host.Outcome.next.inj (h.symm.trans he)⟩)
    · cases he.symm.trans h

/-! ### The invariant under the updates of the registers it reads -/

/-- Every command ends with a code of the table in `ERR` (10_state.md R24). -/
theorem exec_err_le {i : Instr} {s t : State} (h : exec i s = .next t) : t.ERR.toNat ≤ 6 := by
  rw [exec_eq] at h
  obtain rfl := Host.Outcome.next.inj h
  cases stages i s with
  | done u => exact ErrCode.code_le .ok
  | failed e u => exact e.code_le

theorem State.Inv.of_sameControl {s t : State} (hs : s.Inv) (h : SameControl s t) (herr : t.ERR.toNat ≤ 6) : t.Inv := by
  obtain ⟨hSTATE, ⟨hNF, hW⟩, ⟨-, hINDEX, -⟩, hHEXBUF, hHEXCNT⟩ := h
  have hschema : activeSchemaValid t = activeSchemaValid s := by rw [activeSchemaValid, hNF, hW, activeSchemaValid]
  exact {
    schema_valid := fun hm => hschema.trans (hs.schema_valid (hSTATE ▸ hm))
    index_top := fun hm => hINDEX ▸ hs.index_top (hSTATE ▸ hm)
    hexcnt_le := hHEXCNT ▸ hs.hexcnt_le
    hexbuf_rest := hHEXCNT ▸ hHEXBUF ▸ hs.hexbuf_rest
    err_le := herr
    nf_le := hNF ▸ hs.nf_le }

/-- TXCLR and PUTC replace the parser registers, of which only part (b) speaks. -/
theorem State.Inv.with_parser {s : State} (hs : s.Inv) {b : Block} {n : BitVec 6} (hn : n.toNat ≤ 33)
    (hb : ∀ j, min n.toNat 32 ≤ j → j < 32 → nib b j = 0) : State.Inv { s with HEXBUF := b, HEXCNT := n, ERR := 0 } where
  schema_valid := hs.schema_valid
  index_top := hs.index_top
  hexcnt_le := hn
  hexbuf_rest := hb
  err_le := Nat.zero_le 6
  nf_le := hs.nf_le

/-- A hex character goes to the first digit not yet seen, so the digits after it stay 0 (44_formatter.md R123). -/
theorem State.Inv.putHex {s : State} (hs : s.Inv) (d : Nibble) : State.Inv { s with
    HEXBUF := if s.HEXCNT.toNat < 32 then setNib s.HEXBUF s.HEXCNT.toNat d else s.HEXBUF
    HEXCNT := BitVec.ofNat 6 (min (s.HEXCNT.toNat + 1) 33)
    ERR := 0 } := by
  have hcount : (BitVec.ofNat 6 (min (s.HEXCNT.toNat + 1) 33)).toNat = min (s.HEXCNT.toNat + 1) 33 :=
    Nat.mod_eq_of_lt (by omega)
  refine hs.with_parser (by omega) fun j hj hj32 => ?_
  rw [hcount] at hj
  have hlt : s.HEXCNT.toNat < 32 := by omega
  rw [if_pos hlt, nib_setNib_ne _ _ _ _ hlt hj32 (by omega)]
  exact hs.hexbuf_rest j (by omega) hj32

/-! ### Activation (45_toplevel.md R132) -/

theorem widthList_activatedWidths (s : State) : widthList (activatedWidths s) =
    (widthList s.SCH_W_IN).take s.SCH_NF_IN.toNat ++ List.replicate (16 - s.SCH_NF_IN.toNat) 0 := by
  apply List.ext_getElem
  · simp
    omega
  · intro k hk _
    rw [widthList_length] at hk
    by_cases hlt : k < s.SCH_NF_IN.toNat <;> simp [widthList, activatedWidths, List.getElem_append, hlt, hk]

/-- A staged schema that passes the test is valid when active: the test reads the first `NF` widths, and the others are 0. -/
theorem activeSchemaValid_of_activated {s t : State} (hvalid : stagedValid s = true) (hNF : t.NF = s.SCH_NF_IN)
    (hW : t.W = activatedWidths s) : activeSchemaValid t = true := by
  have hn : s.SCH_NF_IN.toNat ≤ 16 := ((validate_iff _ _).mp hvalid).1
  have hlen : ((widthList s.SCH_W_IN).take s.SCH_NF_IN.toNat).length = s.SCH_NF_IN.toNat := by simpa using hn
  rw [activeSchemaValid, hNF, hW, widthList_activatedWidths, List.drop_left' hlen, Bool.and_eq_true]
  refine ⟨?_, by simp⟩
  rw [validate_iff, List.take_left' hlen, ← validate_iff]
  exact hvalid

theorem ready_of_failedInitMode {p : Config.InitFailState} {m : Mode} (h : failedInitMode p m = .ready) : m = .ready := by
  cases p with
  | uninit => cases h
  | unchanged => exact h

/-- Initialisation keeps the invariant, whatever the key: on success by the test of the staged schema and the forced top bit of
`INDEX`, on failure because `STATE` does not become `Ready`. -/
theorem initialise_keeps_inv {s : State} (hs : s.Inv) (p : Config.InitFailState) (key : Block) :
    (initialise p key s).finish.Inv := by
  rcases initialise_cases p key s with ⟨hvalid, e⟩ | ⟨-, e⟩
  · rw [e]
    exact {
      schema_valid := fun _ => activeSchemaValid_of_activated hvalid rfl rfl
      index_top := fun _ => by simp
      hexcnt_le := hs.hexcnt_le
      hexbuf_rest := hs.hexbuf_rest
      err_le := Nat.zero_le 6
      nf_le := ((validate_iff _ _).mp hvalid).1 }
  · rw [e]
    exact {
      schema_valid := fun hm => hs.schema_valid (ready_of_failedInitMode hm)
      index_top := fun hm => hs.index_top (ready_of_failedInitMode hm)
      hexcnt_le := hs.hexcnt_le
      hexbuf_rest := hs.hexbuf_rest
      err_le := ErrCode.code_le .invalidSchema
      nf_le := hs.nf_le }

/-! ### Every command and every step keeps the invariant -/

theorem exec_keeps_inv {i : Instr} {s t : State} (hs : s.Inv) (h : exec i s = .next t) : t.Inv := by
  cases i with
  | init =>
    obtain rfl := Host.Outcome.next.inj h
    exact initialise_keeps_inv hs _ _
  | inite =>
    obtain rfl := Host.Outcome.next.inj h
    exact initialise_keeps_inv (hs.of_sameControl (.own_fields s _ _ (s.draws + 1)) hs.err_le) _ _
  | txclr =>
    obtain rfl := Host.Outcome.next.inj h
    exact hs.with_parser (Nat.zero_le 33) fun j _ _ => nib_zero j
  | putc c =>
    rcases stagePutc_cases c s with ⟨-, e⟩ | ⟨d, -, e⟩ <;>
      obtain rfl := Host.Outcome.next.inj ((exec_of_done (i := .putc c) e).symm.trans h)
    · exact hs.of_sameControl (.of_frame (.setERR s 0) (by decide)) (Nat.zero_le 6)
    · exact hs.putHex d
  | nop | validate | encode | decode | pack | unpack | compute | verify | mask | unmask | format | parse =>
    exact hs.of_sameControl (.of_frame (exec_frame h) (by decide)) (exec_err_le h)

/-- Settles O16: reset clears `STATE`, so part (a) asks for nothing, and the other parts hold of zeros. -/
theorem invariantHoldsAtReset : Obligations.InvariantHoldsAtReset where
  schema_valid := fun hm => by cases hm
  index_top := fun hm => by cases hm
  hexcnt_le := Nat.zero_le 33
  hexbuf_rest := fun j _ _ => nib_zero j
  err_le := Nat.zero_le 6
  nf_le := Nat.zero_le 16

/-- Settles O17, by what a step can do: a command keeps the invariant, reset establishes it, and every other event leaves the
registers it reads alone. -/
theorem everyStepKeepsTheInvariant : Obligations.EveryStepKeepsTheInvariant := by
  unfold Obligations.EveryStepKeepsTheInvariant
  intro s t hs h
  rcases step_cases h with ⟨hsame, herr⟩ | ⟨w, i, rest, -, -, hexec⟩ | ⟨rest, -, rfl⟩
  · refine hs.of_sameControl hsame ?_
    rcases herr with herr | herr <;> rw [herr]
    · exact hs.err_le
    · exact ErrCode.code_le .illegalCommand
  · exact exec_keeps_inv (hs.of_sameControl (.own_fields s rest _ _) hs.err_le) hexec
  · exact State.Inv.of_sameControl invariantHoldsAtReset (.own_fields State.reset _ _ _) (Nat.zero_le 6)

/-! ### The active configuration along a step -/

/-- `t` holds the valid schema staged in `s` and the subkeys of `key`, all together (10_state.md R36(e)). -/
structure Activates (key : Block) (s t : State) : Prop where
  staged : stagedValid s = true
  STATE : t.STATE = .ready
  NF : t.NF = s.SCH_NF_IN
  W : t.W = activatedWidths s
  PRE : t.PRE = key.extractLsb' 96 32
  INDEX : t.INDEX = key.extractLsb' 64 32 ||| 0x80000000#32
  POST : t.POST = key.extractLsb' 32 32

theorem initialise_activates_or_keeps (p : Config.InitFailState) (key : Block) (s : State) :
    Activates key s (initialise p key s).finish ∨
    (Reg.cfg.same s (initialise p key s).finish ∧ Reg.keys.same s (initialise p key s).finish) := by
  rcases initialise_cases p key s with ⟨hvalid, e⟩ | ⟨-, e⟩
  · exact .inl (e ▸ ⟨hvalid, rfl, rfl, rfl, rfl, rfl, rfl⟩)
  · exact .inr (e ▸ ⟨⟨rfl, rfl⟩, rfl, rfl, rfl⟩)

/-- The secret a command initialises with (45_toplevel.md R132, R133; log entry 4). -/
def secretOf (s : State) : Instr → Option Block
  | .init => some s.KEY_IN
  | .inite => some (Config.draw s.draws)
  | _ => none

/-- A command keeps the active configuration, or it is an INIT or INITE that succeeds. -/
theorem exec_activates_or_keeps {i : Instr} {s t : State} (h : exec i s = .next t) :
    (∃ key, secretOf s i = some key ∧ Activates key s t) ∨ (Reg.cfg.same s t ∧ Reg.keys.same s t) := by
  cases i with
  | init =>
    obtain rfl := Host.Outcome.next.inj h
    exact (initialise_activates_or_keeps _ _ s).imp_left fun hact => ⟨_, rfl, hact⟩
  | inite =>
    obtain rfl := Host.Outcome.next.inj h
    exact (initialise_activates_or_keeps _ _ (takeDraw s)).imp_left fun hact =>
      ⟨_, rfl, hact.staged, hact.STATE, hact.NF, hact.W, hact.PRE, hact.INDEX, hact.POST⟩
  | nop | validate | encode | decode | pack | unpack | compute | verify | mask | unmask | format | parse | txclr | putc =>
    have hframe := exec_frame h
    exact .inr ⟨hframe.rows .cfg (by simp [mayWrite]), hframe.rows .keys (by simp [mayWrite])⟩

/-- Settles O19, by what a step can do: of the events served, a command alone can activate a configuration, and only INIT and
INITE do. -/
theorem configurationChangesOnlyInInit : Obligations.ConfigurationChangesOnlyInInit := by
  unfold Obligations.ConfigurationChangesOnlyInInit
  intro s t h
  rcases step_cases h with ⟨hsame, -⟩ | ⟨w, i, rest, hhost, hdecode, hexec⟩ | ⟨rest, hhost, -⟩
  · obtain ⟨-, ⟨hNF, hW⟩, hkeys, -, -⟩ := hsame
    exact .inl ⟨hNF, hW, hkeys⟩
  · rcases exec_activates_or_keeps hexec with ⟨key, hkey, hact⟩ | ⟨⟨hNF, hW⟩, hkeys⟩
    · refine .inr (.inr ⟨hact.staged, hact.STATE, ⟨w, rest, hhost, ?_⟩, hact.NF, fun k => ?_⟩)
      · cases i with
        | init =>
          obtain rfl := Option.some.inj hkey
          exact .inl ⟨hdecode, hact.PRE, hact.INDEX, hact.POST⟩
        | inite =>
          obtain rfl := Option.some.inj hkey
          exact .inr ⟨hdecode, hact.PRE, hact.INDEX, hact.POST⟩
        | _ => cases hkey
      · rw [hact.W]
        exact activatedWidths_get { s with host := rest } k
    · exact .inl ⟨hNF, hW, hkeys⟩
  · exact .inr (.inl ⟨rest, hhost⟩)

/-! ### Reset -/

/-- Settles O14: the register files are vectors of zeros, every other register is written 0. -/
theorem resetZeroesEveryRegister : Obligations.ResetZeroesEveryRegister := by
  unfold Obligations.ResetZeroesEveryRegister
  have hfile {α : Type} {n : Nat} (z : α) (k : Fin n) : (Vector.replicate n z)[k] = z := Vector.getElem_replicate k.isLt
  exact ⟨rfl, rfl, rfl, hfile 0, rfl, rfl, hfile 0, rfl, rfl, rfl, hfile 0, rfl, rfl, rfl, rfl, rfl, hfile 0⟩

end Sys2Proof.Machine
end

section
/-! SUPPORT. The transactions still pending are invisible to what serves an event: every stage, command and host event acts alike
whatever they are, and hands them on unchanged (20_memory.md R50). Steps and runs of steps follow. -/

namespace Sys2Proof.Machine

/-! ### What a stage does with the pending transactions -/

/-- The same end, with another list of pending transactions. -/
def Stage.withHost (later : List HostEvent) : Stage → Stage
  | .done s => .done (s.setHost later)
  | .failed e s => .failed e (s.setHost later)

theorem Stage.finish_withHost (later : List HostEvent) (r : Stage) :
    (r.withHost later).finish = r.finish.setHost later := by
  cases r <;> rfl

/-- A stage neither reads nor writes the pending transactions. -/
def IgnoresHost (f : State → Stage) : Prop :=
  ∀ (s : State) (later : List HostEvent), f (s.setHost later) = (f s).withHost later

theorem IgnoresHost.andThen {f g : State → Stage} (hf : IgnoresHost f) (hg : IgnoresHost g) :
    IgnoresHost fun s => (f s).andThen g := by
  intro s later
  show (f (s.setHost later)).andThen g = ((f s).andThen g).withHost later
  rw [hf s later]
  cases f s with
  | done t => exact hg t later
  | failed e t => rfl

/-- A stage that tests the state and then either completes or fails. -/
theorem IgnoresHost.ite {p : State → Prop} [DecidablePred p] {f g : State → Stage}
    (hp : ∀ s later, p (s.setHost later) ↔ p s) (hf : IgnoresHost f) (hg : IgnoresHost g) :
    IgnoresHost fun s => if p s then f s else g s := by
  intro s later
  simp only [hp]
  split
  · exact hf s later
  · exact hg s later

theorem IgnoresHost.fails (e : ErrCode) : IgnoresHost (.failed e) := fun _ _ => rfl

theorem whenReady_ignoresHost : IgnoresHost whenReady := by
  intro s later
  rcases s.mode_cases with hm | hm
  · rw [whenReady_of_uninitialized hm, whenReady_of_uninitialized (s := s.setHost later) hm]
    rfl
  · rw [whenReady_of_ready hm, whenReady_of_ready (s := s.setHost later) hm]
    rfl

theorem stagePack_ignoresHost : IgnoresHost stagePack := fun _ _ => rfl

theorem stageUnpack_ignoresHost : IgnoresHost stageUnpack := fun _ _ => rfl

theorem stageCompute_ignoresHost : IgnoresHost stageCompute := fun _ _ => rfl

theorem stageMask_ignoresHost (wf : Word → Block) : IgnoresHost (stageMask wf) := fun _ _ => rfl

theorem stageFormat_ignoresHost : IgnoresHost stageFormat := fun _ _ => rfl

theorem stageTxclr_ignoresHost : IgnoresHost stageTxclr := fun _ _ => rfl

theorem stageValidate_ignoresHost : IgnoresHost stageValidate :=
  .ite (fun _ _ => Iff.rfl) (fun _ _ => rfl) (.fails _)

theorem stageVerify_ignoresHost : IgnoresHost stageVerify :=
  .ite (fun _ _ => Iff.rfl) (fun _ _ => rfl) (.fails _)

theorem stageParse_ignoresHost : IgnoresHost stageParse :=
  .ite (fun _ _ => Iff.rfl) (fun _ _ => rfl) (.fails _)

theorem stageUnmask_ignoresHost (wf : Word → Block) : IgnoresHost (stageUnmask wf) := by
  intro s later
  show stageUnmask wf { s with host := later } = _
  unfold stageUnmask
  cases unmask wf s.BLK <;> rfl

theorem stagePutc_ignoresHost (c : Byte) : IgnoresHost (stagePutc c) := by
  intro s later
  unfold stagePutc
  cases hexval c <;> rfl

theorem initialise_ignoresHost (p : Config.InitFailState) (key : Block) : IgnoresHost (initialise p key) :=
  .ite (fun _ _ => Iff.rfl) (fun _ _ => rfl) (fun _ _ => rfl)

theorem encodeStages_ignoresHost (wf : Word → Block) : IgnoresHost (encodeStages wf) :=
  (((whenReady_ignoresHost.andThen stagePack_ignoresHost).andThen stageCompute_ignoresHost).andThen
    (stageMask_ignoresHost wf)).andThen stageFormat_ignoresHost

theorem decodeStages_ignoresHost (wf : Word → Block) : IgnoresHost (decodeStages wf) :=
  (((whenReady_ignoresHost.andThen stageParse_ignoresHost).andThen (stageUnmask_ignoresHost wf)).andThen
    stageVerify_ignoresHost).andThen stageUnpack_ignoresHost

theorem stages_ignoresHost (i : Instr) : IgnoresHost (stages i) := by
  cases i with
  | nop => exact fun _ _ => rfl
  | init => exact fun s later => initialise_ignoresHost _ s.KEY_IN s later
  | inite => exact fun s later => initialise_ignoresHost _ (Config.draw s.draws) (takeDraw s) later
  | validate => exact stageValidate_ignoresHost
  | encode => exact encodeStages_ignoresHost _
  | decode => exact decodeStages_ignoresHost _
  | pack => exact whenReady_ignoresHost.andThen stagePack_ignoresHost
  | unpack => exact whenReady_ignoresHost.andThen stageUnpack_ignoresHost
  | compute => exact whenReady_ignoresHost.andThen stageCompute_ignoresHost
  | verify => exact whenReady_ignoresHost.andThen stageVerify_ignoresHost
  | mask => exact stageMask_ignoresHost _
  | unmask => exact stageUnmask_ignoresHost _
  | format => exact stageFormat_ignoresHost
  | parse => exact stageParse_ignoresHost
  | txclr => exact stageTxclr_ignoresHost
  | putc c => exact stagePutc_ignoresHost c

/-! ### Commands, host events and steps -/

theorem exec_setHost {i : Instr} {s t : State} (h : exec i s = .next t) (later : List HostEvent) :
    exec i (s.setHost later) = .next (t.setHost later) := by
  rw [exec_eq] at h ⊢
  obtain rfl := Host.Outcome.next.inj h
  rw [stages_ignoresHost i s later, Stage.finish_withHost]

/-- Settles O11: no stage of a command reads or writes the pending transactions. -/
theorem commandsIgnorePendingTransactions : Obligations.CommandsIgnorePendingTransactions := by
  unfold Obligations.CommandsIgnorePendingTransactions
  intro i s later
  exact ⟨_, exec_eq i s, exec_setHost (exec_eq i s) later⟩

@[simp] theorem Loc.read_setHost (s : State) (later : List HostEvent) (l : Loc) : l.read (s.setHost later) = l.read s := by
  cases l <;> rfl

theorem Loc.write_setHost (v : Word) (s : State) (later : List HostEvent) (l : Loc) :
    l.write v (s.setHost later) = (l.write v s).setHost later := by
  cases l <;> rfl

theorem observeRead_setHost (idx : Index) (s : State) (later : List HostEvent) :
    observeRead idx (s.setHost later) = (observeRead idx s).setHost later := by
  simp only [observeRead, portRead, Loc.read_setHost]
  rfl

/-- A write to an index other than `CMD` stores, and does nothing else (20_memory.md R42(b), (c)). -/
theorem portWrite_data {idx : Index} (h : locate idx ≠ .cmd) (v : Word) (s : State) :
    portWrite idx v s = .next ((locate idx).write v s) := by
  unfold portWrite
  split
  · contradiction
  · rfl

theorem portWrite_setHost {idx : Index} {v : Word} {s t : State} (h : portWrite idx v s = .next t) (later : List HostEvent) :
    portWrite idx v (s.setHost later) = .next (t.setHost later) := by
  by_cases hcmd : locate idx = .cmd
  · simp only [portWrite, hcmd, command] at h ⊢
    cases hd : decode v with
    | command i =>
      simp only [hd] at h
      exact exec_setHost h later
    | illegal why =>
      simp only [hd] at h
      obtain rfl := Host.Outcome.next.inj h
      rfl
  · rw [portWrite_data hcmd] at h ⊢
    obtain rfl := Host.Outcome.next.inj h
    rw [Loc.write_setHost]

theorem serve_setHost {e : HostEvent} {s t : State} (h : serve e s = .next t) (later : List HostEvent) :
    serve e (s.setHost later) = .next (t.setHost later) := by
  cases e with
  | read idx =>
    obtain rfl := Host.Outcome.next.inj h
    exact congrArg _ (observeRead_setHost idx s later)
  | write idx v => exact portWrite_setHost h later
  | busRead addr bytes =>
    cases hb : bridgeIndex addr bytes with
    | none => simp [serve, hb] at h
    | some idx =>
      simp only [serve, hb] at h ⊢
      obtain rfl := Host.Outcome.next.inj h
      rw [observeRead_setHost]
  | busWrite addr bytes v =>
    cases hb : bridgeIndex addr bytes with
    | none => simp [serve, hb] at h
    | some idx =>
      simp only [serve, hb] at h ⊢
      exact portWrite_setHost h later
  | reset =>
    obtain rfl := Host.Outcome.next.inj h
    rfl

/-- Serving an event hands on the pending transactions it was given. -/
theorem serve_host {e : HostEvent} {s t : State} (h : serve e s = .next t) : t.host = s.host := by
  have hsame : t = t.setHost s.host := Host.Outcome.next.inj (h.symm.trans (serve_setHost h s.host))
  exact (congrArg State.host hsame :)

theorem serveAll_cons_eq_next {e : HostEvent} {es : List HostEvent} {s t : State} (h : serveAll (e :: es) s = .next t) :
    ∃ u, serve e s = .next u ∧ serveAll es u = .next t := by
  cases he : serve e s with
  | next u => exact ⟨u, rfl, serveAll_cons_of_next he ▸ h⟩
  | fault r => cases r
  | refused r => simp [serveAll, he] at h

/-- Settles O12, by induction on the events: one step serves the first of them as `serveAll` does, and hands on the others. -/
theorem runServesEventsInOrder : Obligations.RunServesEventsInOrder := by
  unfold Obligations.RunServesEventsInOrder
  intro es rest s t h
  induction es generalizing s with
  | nil => exact h
  | cons e es ih =>
    obtain ⟨u, hserve, hrest⟩ := serveAll_cons_eq_next h
    have hhost : u.host = rest := serve_host hserve
    have hstep : step { s with host := e :: es ++ rest } = .next { u with host := es ++ rest } :=
      (step_of_cons rfl).trans (serve_setHost hserve (es ++ rest))
    rw [List.length_cons, run_succ_of_next hstep]
    exact ih u (hhost ▸ hrest)

/-- Settles O5: the next pending event is served, and a word written to `CMD` is executed as the command it decodes to. -/
theorem stepRunsDecodedCommand : Obligations.StepRunsDecodedCommand := by
  unfold Obligations.StepRunsDecodedCommand
  intro s w i rest hhost hdecode
  exact (step_of_cons hhost).trans (serve_command hdecode _)

/-- Settles O6: serving a read appends to the observed values alone, and with nothing pending nothing is served. -/
theorem readsAndIdlingChangeNoRegister : Obligations.ReadsAndIdlingChangeNoRegister := by
  unfold Obligations.ReadsAndIdlingChangeNoRegister
  refine ⟨fun s idx rest hhost => ?_, fun s hhost => step_of_nil hhost⟩
  rw [step_of_cons hhost]
  exact congrArg _ (observeRead_setHost idx s rest)

/-! ### The bridge (20_memory.md R46) -/

theorem bridgeIndex_aligned (idx : Index) : bridgeIndex (4 * idx.toNat) 4 = some idx := by
  have hlt : idx.toNat < 128 := idx.isLt
  have hdiv : 4 * idx.toNat / 4 = idx.toNat := by omega
  have hcond : 4 = 4 ∧ 4 * idx.toNat % 4 = 0 ∧ 4 * idx.toNat / 4 < 128 := by omega
  rw [bridgeIndex, if_pos hcond, hdiv, BitVec.ofNat_toNat, BitVec.setWidth_eq]

theorem bridgeIndex_eq_none {addr bytes : Nat} (h : bytes ≠ 4 ∨ addr % 4 ≠ 0) : bridgeIndex addr bytes = none :=
  if_neg (by omega)

/-- Settles O13: an access is forwarded at the index the bridge presents for it, and refused when there is none. -/
theorem bridgeForwardsAlignedWordsOnly : Obligations.BridgeForwardsAlignedWordsOnly := by
  unfold Obligations.BridgeForwardsAlignedWordsOnly
  refine ⟨fun idx v s => ?_, fun addr bytes v s h => ?_⟩
  · simp only [serve, bridgeIndex_aligned, and_self]
  · simp only [serve, bridgeIndex_eq_none h, and_self]

end Sys2Proof.Machine
end

section
/-! SUPPORT. What the port reads at each index and what a write to a data location does, location by location (20_memory.md R41 to
R45, R48), and the pseudo-statements that write wide registers (30_encoding.md R63). -/

namespace Sys2Proof.Machine

/-! ### Reads -/

/-- A named location is read at its index. -/
theorem portRead_of_idx {l : Loc} {i : Index} (h : l.idx = some i) (s : State) : portRead s i = l.read s := by
  rw [portRead, locate_idx l i h]

theorem locate_unmapped : ∀ idx : Index, unmappedIndex idx = true → locate idx = .unmapped := by decide

/-- Entry `k` of a register file of bytes is read at byte `k mod 4` of word `k div 4` (20_memory.md R44, R45). -/
theorem byte_of_portRead {n : Nat} {s : State} {v : Vector Byte n} {l : Loc} {i : Index} (k : Fin n) (hi : l.idx = some i)
    (hread : l.read s = packBytes v (k.val / 4)) : (portRead s i).extractLsb' (24 - 8 * (k.val % 4)) 8 = v[k] := by
  rw [portRead_of_idx hi, hread]
  have hbyte := byteIn_packBytes v k.val
  rw [Vector.getElem?_eq_getElem k.isLt, Option.getD_some] at hbyte
  exact hbyte

theorem status_read (s : State) : Loc.status.read s = if s.STATE = .ready then 1 else 0 := by
  rcases s.mode_cases with hm | hm <;> simp [Loc.read, hm, Mode.bit]

/-- Settles O7: each index names its location, and the words of a wide register join to it. -/
theorem portReadFollowsTheMap : Obligations.PortReadFollowsTheMap := by
  unfold Obligations.PortReadFollowsTheMap
  intro s
  have hword (q k : Nat) (hk : k < 4 * q) : k / 4 < q := Nat.div_lt_of_lt_mul hk
  refine ⟨rfl, status_read s, rfl, rfl, block_of_parts s.KEY_IN, rfl, fun k => ?_, rfl, fun k => ?_, rfl, rfl, rfl, rfl,
    hi64_lo64 s.PAY, block_of_parts s.BLK, block_of_parts s.HEXBUF, fun j => ?_, fun k => ?_, fun idx hidx => ?_⟩
  · exact byte_of_portRead (l := .schWIn ⟨k.val / 4, hword 4 _ k.isLt⟩) k rfl rfl
  · exact byte_of_portRead (l := .w ⟨k.val / 4, hword 4 _ k.isLt⟩) k rfl rfl
  · exact byte_of_portRead (l := .tokOut ⟨j.val / 4, hword 9 _ j.isLt⟩) j rfl rfl
  · rw [portRead_of_idx (l := .recHi k) rfl, portRead_of_idx (l := .recLo k) rfl]
    exact hi64_lo64 s.REC[k]
  · rw [portRead, locate_unmapped idx hidx]
    rfl

/-! ### The bits a location has -/

/-- The column "bits used" of 20_memory.md R43, by location. -/
def Loc.bits : Loc → Word
  | .cmd => 0
  | .status => 0x1
  | .err => 0xF
  | .hexcnt => 0x3F
  | .schNfIn => 0x1F
  | .nf => 0x1F
  | .unmapped => 0
  | _ => 0xFFFFFFFF

theorem locate_bits : ∀ idx : Index, (locate idx).bits = readBits idx := by decide

/-- A register narrower than a word reads 0 above its bits. -/
theorem setWidth_and_not_allOnes {n : Nat} (x : BitVec n) : x.setWidth 32 &&& ~~~((BitVec.allOnes n).setWidth 32) = 0 := by
  apply BitVec.eq_of_getLsbD_eq
  intro i hi
  by_cases hn : i < n
  · simp [hi, hn]
  · simp [BitVec.getLsbD_of_ge x i (Nat.not_lt.mp hn)]

theorem and_not_allOnes (x : Word) : x &&& ~~~0xFFFFFFFF#32 = 0 := by simp

theorem Loc.read_and_not_bits (s : State) (l : Loc) : l.read s &&& ~~~l.bits = 0 := by
  cases l with
  | cmd | unmapped => exact BitVec.zero_and
  | status => exact setWidth_and_not_allOnes s.STATE.bit
  | err => exact setWidth_and_not_allOnes s.ERR
  | hexcnt => exact setWidth_and_not_allOnes s.HEXCNT
  | schNfIn => exact setWidth_and_not_allOnes s.SCH_NF_IN
  | nf => exact setWidth_and_not_allOnes s.NF
  | _ => exact and_not_allOnes _

/-- Settles O9: at every index the bits used are those of its location, and a location reads no others. -/
theorem reservedBitsReadZero : Obligations.ReservedBitsReadZero := by
  unfold Obligations.ReservedBitsReadZero
  intro s idx
  rw [← locate_bits]
  exact (locate idx).read_and_not_bits s

/-! ### Writes -/

/-- The locations of the rows marked RW of 20_memory.md R43. -/
def Loc.writable : Loc → Bool
  | .keyIn _ | .schNfIn | .schWIn _ | .chk | .payHi | .payLo | .blk _ | .recHi _ | .recLo _ => true
  | _ => false

theorem locate_writable : ∀ idx : Index, (locate idx).writable = hostWritable idx := by decide

/-- A write to a location the host cannot write is ignored (20_memory.md R42(c), R48). -/
theorem Loc.write_of_not_writable {l : Loc} (h : l.writable = false) (v : Word) (s : State) : l.write v s = s := by
  cases l with
  | keyIn | schNfIn | schWIn | chk | payHi | payLo | blk | recHi | recLo => cases h
  | _ => rfl

/-- A word stored in a register narrower than a word keeps the low bits. -/
theorem setWidth_setWidth_eq_and (x : Word) (n : Nat) :
    (x.setWidth n).setWidth 32 = x &&& (BitVec.allOnes n).setWidth 32 := by
  apply BitVec.eq_of_getLsbD_eq
  intro i hi
  simp [hi, Bool.and_comm]

/-- Replacing the high word of a record register leaves every low word. -/
theorem lo64_set_hi (r : Vector Dword 16) (k j : Fin 16) (v : Word) :
    lo64 (r.set k.val (v ++ lo64 r[k]) k.isLt)[j] = lo64 r[j] := by
  by_cases hkj : k = j
  · subst hkj
    exact (congrArg lo64 (Vector.getElem_set_self k.isLt)).trans (lo64_append _ _)
  · exact congrArg lo64 (Vector.getElem_set_ne k.isLt j.isLt fun e => hkj (Fin.ext e))

/-- Replacing the low word of a record register leaves every high word. -/
theorem hi64_set_lo (r : Vector Dword 16) (k j : Fin 16) (v : Word) :
    hi64 (r.set k.val (hi64 r[k] ++ v) k.isLt)[j] = hi64 r[j] := by
  by_cases hkj : k = j
  · subst hkj
    exact (congrArg hi64 (Vector.getElem_set_self k.isLt)).trans (hi64_append _ _)
  · exact congrArg hi64 (Vector.getElem_set_ne k.isLt j.isLt fun e => hkj (Fin.ext e))

/-- A write to a host-writable location is read back in the bits its register has (20_memory.md R42(b)). -/
theorem Loc.read_write_same {l : Loc} (h : l.writable = true) (v : Word) (s : State) : l.read (l.write v s) = v &&& l.bits := by
  have hall (x : Word) (hx : x = v) : x = v &&& 0xFFFFFFFF#32 := hx.trans BitVec.and_allOnes.symm
  cases l with
  | keyIn q => exact hall _ ((part128_setPart128 _ _ _ _).trans (if_pos rfl))
  | blk q => exact hall _ ((part128_setPart128 _ _ _ _).trans (if_pos rfl))
  | schWIn q => exact hall _ ((packBytes_setPackedBytes s.SCH_W_IN q.val q.val v (by omega)).trans (if_pos rfl))
  | schNfIn => exact setWidth_setWidth_eq_and v 5
  | chk => exact hall _ rfl
  | payHi => exact hall _ (hi64_append _ _)
  | payLo => exact hall _ (lo64_append _ _)
  | recHi k => exact hall _ ((congrArg hi64 (Vector.getElem_set_self k.isLt)).trans (hi64_append _ _))
  | recLo k => exact hall _ ((congrArg lo64 (Vector.getElem_set_self k.isLt)).trans (lo64_append _ _))
  | _ => cases h

/-- A write leaves what every other location reads. -/
theorem Loc.read_write_ne {l m : Loc} (h : m ≠ l) (v : Word) (s : State) : m.read (l.write v s) = m.read s := by
  cases hw : l.writable with
  | false => rw [Loc.write_of_not_writable hw]
  | true =>
    cases l with
    | keyIn q =>
      cases m with
      | keyIn r => exact (part128_setPart128 _ _ _ _).trans (if_neg fun e => h (congrArg Loc.keyIn e))
      | _ => rfl
    | blk q =>
      cases m with
      | blk r => exact (part128_setPart128 _ _ _ _).trans (if_neg fun e => h (congrArg Loc.blk e))
      | _ => rfl
    | schWIn q =>
      cases m with
      | schWIn r =>
        exact (packBytes_setPackedBytes s.SCH_W_IN q.val r.val v (by omega)).trans
          (if_neg fun e => h (congrArg Loc.schWIn (Fin.ext e)))
      | _ => simp [Loc.read, Loc.write]
    | schNfIn =>
      cases m with
      | schNfIn => exact absurd rfl h
      | _ => rfl
    | chk =>
      cases m with
      | chk => exact absurd rfl h
      | _ => rfl
    | payHi =>
      cases m with
      | payHi => exact absurd rfl h
      | payLo => exact lo64_append _ _
      | _ => rfl
    | payLo =>
      cases m with
      | payHi => exact hi64_append _ _
      | payLo => exact absurd rfl h
      | _ => rfl
    | recHi k =>
      cases m with
      | recHi j => exact congrArg hi64 (Vector.getElem_set_ne k.isLt j.isLt fun e => h (congrArg Loc.recHi (Fin.ext e.symm)))
      | recLo j => exact lo64_set_hi s.REC k j v
      | _ => rfl
    | recLo k =>
      cases m with
      | recHi j => exact hi64_set_lo s.REC k j v
      | recLo j => exact congrArg lo64 (Vector.getElem_set_ne k.isLt j.isLt fun e => h (congrArg Loc.recLo (Fin.ext e.symm)))
      | _ => rfl
    | _ => cases hw

theorem locate_eq_cmd : ∀ idx : Index, locate idx = .cmd → idx = 0x00 := by decide

theorem Loc.read_unmapped (s : State) : Loc.unmapped.read s = 0 := rfl

/-- Settles O8, location by location: two indices name different locations, or both read 0. -/
theorem dataWriteChangesOnlyItsLocation : Obligations.DataWriteChangesOnlyItsLocation := by
  unfold Obligations.DataWriteChangesOnlyItsLocation
  intro s idx v hidx
  obtain ⟨-, -, -, -, -, -, -, -, -, -, hown⟩ := (locate idx).write_frame v s
  refine ⟨_, portWrite_data (fun hcmd => hidx (locate_eq_cmd idx hcmd)) v s, ?_, fun j hj => ?_, hown⟩
  · rw [← locate_writable, ← locate_bits]
    split
    case isTrue hw => exact Loc.read_write_same hw v s
    case isFalse hw => rw [Loc.write_of_not_writable (Bool.eq_false_iff.mpr hw)]
  · by_cases hl : locate j = locate idx
    · have hun : locate j = .unmapped := by_contra fun hm => hj (locate_inj hl hm)
      simp only [portRead, hun, Loc.read_unmapped]
    · exact Loc.read_write_ne hl v s

end Sys2Proof.Machine
end

section
/-! SUPPORT. A wide register written word by word through the port holds the value whole, whatever it held (20_memory.md R44,
30_encoding.md R63). -/

namespace Sys2Proof.Machine

/-! ### Writes to data locations, one after another -/

/-- The writes of a list of words to locations, the first one first. -/
def writeAll : List (Loc × Word) → State → State
  | [], s => s
  | (l, v) :: ws, s => writeAll ws (l.write v s)

theorem Loc.data_of_writable {l : Loc} (h : l.writable = true) : ∃ i, l.idx = some i ∧ l ≠ .cmd := by
  cases l with
  | cmd | status | err | hexcnt | nf | w | pre | index | post | hexbuf | tokOut | unmapped => cases h
  | _ => exact ⟨_, rfl, Loc.noConfusion⟩

theorem serveAll_wrLoc {l : Loc} (h : l.writable = true) (v : Word) (s : State) :
    serveAll (wrLoc l v) s = .next (l.write v s) := by
  obtain ⟨i, hi, hcmd⟩ := Loc.data_of_writable h
  have hloc : locate i = l := locate_idx l i hi
  have hserve : serve (.write i v) s = .next (l.write v s) := by
    rw [← hloc] at hcmd ⊢
    exact portWrite_data hcmd v s
  rw [wrLoc, hi]
  exact serveAll_cons_of_next hserve

theorem serveAll_wrLocs (ws : List (Loc × Word)) (h : ∀ w ∈ ws, w.1.writable = true) (s : State) :
    serveAll (ws.map fun w => wrLoc w.1 w.2).flatten s = .next (writeAll ws s) := by
  induction ws generalizing s with
  | nil => rfl
  | cons w ws ih =>
    rw [List.forall_mem_cons] at h
    rw [List.map_cons, List.flatten_cons, serveAll_append_of_next (serveAll_wrLoc h.1 w.2 s)]
    exact ih h.2 _

/-! ### The registers of 128 and of 64 bits -/

theorem block_ext_part128 {a b : Block} (h : ∀ q : Fin 4, part128 a q.val = part128 b q.val) : a = b := by
  have h0 : part128 a 0 = part128 b 0 := h 0
  have h1 : part128 a 1 = part128 b 1 := h 1
  have h2 : part128 a 2 = part128 b 2 := h 2
  have h3 : part128 a 3 = part128 b 3 := h 3
  rw [← block_of_parts a, ← block_of_parts b, h0, h1, h2, h3]

/-- A block whose four parts are replaced in turn holds none of its old bits. -/
theorem setPart128_all (b v : Block) :
    setPart128 (setPart128 (setPart128 (setPart128 b (0 : Fin 4).val (part128 v 0)) (1 : Fin 4).val (part128 v 1))
      (2 : Fin 4).val (part128 v 2)) (3 : Fin 4).val (part128 v 3) = v := by
  apply block_ext_part128
  intro q
  simp only [part128_setPart128]
  fin_cases q <;> rfl

/-- A record register whose two words are replaced in turn holds none of its old bits. -/
theorem set_hi_set_lo (r : Vector Dword 16) (k : Fin 16) (v : Dword) :
    (r.set k.val (hi64 v ++ lo64 r[k]) k.isLt).set k.val
      (hi64 (r.set k.val (hi64 v ++ lo64 r[k]) k.isLt)[k] ++ lo64 v) k.isLt = r.set k.val v k.isLt := by
  have hget : (r.set k.val (hi64 v ++ lo64 r[k]) k.isLt)[k] = hi64 v ++ lo64 r[k] := Vector.getElem_set_self k.isLt
  rw [hget, hi64_append, hi64_lo64, Vector.set_set]

theorem serveAll_wr128 {name : Wide128} (h : name ≠ .hexbuf) (v : Block) (s : State) :
    serveAll (Stmt.wr128 name v).expand s = .next (writeAll (name.words.zip (words128 v)) s) := by
  rw [← serveAll_wrLocs]
  · cases name <;> rfl
  · cases name with
    | keyIn | blk => simp [Wide128.words, words128, Loc.writable]
    | hexbuf => exact absurd rfl h

theorem serveAll_wr64 (name : Wide64) (v : Dword) (s : State) :
    serveAll (Stmt.wr64 name v).expand s = .next (writeAll (name.words.zip (words64 v)) s) := by
  rw [← serveAll_wrLocs]
  · cases name <;> rfl
  · cases name <;> simp [Wide64.words, words64, Loc.writable]

theorem writeAll_keyIn (v : Block) (s : State) : writeAll (Wide128.keyIn.words.zip (words128 v)) s = s.setKEY_IN v :=
  congrArg (fun b => s.setKEY_IN b) (setPart128_all s.KEY_IN v)

theorem writeAll_blk (v : Block) (s : State) : writeAll (Wide128.blk.words.zip (words128 v)) s = s.setBLK v :=
  congrArg (fun b => s.setBLK b) (setPart128_all s.BLK v)

theorem writeAll_pay (v : Dword) (s : State) : writeAll (Wide64.pay.words.zip (words64 v)) s = s.setPAY v := by
  have hjoin : hi64 (hi64 v ++ lo64 s.PAY) ++ lo64 v = v := by rw [hi64_append, hi64_lo64]
  exact congrArg (fun p => s.setPAY p) hjoin

theorem writeAll_record (k : Fin 16) (v : Dword) (s : State) :
    writeAll ((Wide64.record k).words.zip (words64 v)) s = s.setREC (s.REC.set k.val v k.isLt) :=
  congrArg (fun r => s.setREC r) (set_hi_set_lo s.REC k v)

/-! ### The staged schema -/

/-- A register file of 16 bytes whose four words are replaced in turn holds none of its old bytes. -/
theorem setPackedBytes_all (w v : Vector Byte 16) :
    setPackedBytes (setPackedBytes (setPackedBytes (setPackedBytes w 0 (packBytes v 0)) 1 (packBytes v 1)) 2 (packBytes v 2))
      3 (packBytes v 3) = v := by
  apply Vector.ext
  intro k hk
  have hbyte : byteIn (packBytes v (k / 4)) (k % 4) = v[k] := by
    rw [byteIn_packBytes, Vector.getElem?_eq_getElem hk, Option.getD_some]
  simp only [setPackedBytes_get _ _ _ _ hk]
  have hq : k / 4 = 0 ∨ k / 4 = 1 ∨ k / 4 = 2 ∨ k / 4 = 3 := by omega
  rcases hq with hq | hq | hq | hq <;> rw [hq] at hbyte ⊢ <;> exact hbyte

/-- The sum of shifted widths of 30_encoding.md R63 is the concatenation of the widths as bytes. -/
theorem shifted_bytes_eq_append (a b c d : Byte) :
    (a.setWidth 32 <<< 24 ||| b.setWidth 32 <<< 16 ||| c.setWidth 32 <<< 8 ||| d.setWidth 32 : Word) = a ++ b ++ c ++ d := by
  apply BitVec.eq_of_getLsbD_eq
  intro i hi
  have habove (x : Byte) (j : Nat) (hj : 8 ≤ j) : x.getLsbD j = false := BitVec.getLsbD_of_ge x j hj
  rw [getLsbD_bytes4]
  simp only [BitVec.getLsbD_or, BitVec.getLsbD_shiftLeft, BitVec.getLsbD_setWidth, hi, decide_true, Bool.true_and]
  split
  · simp [show i < 24 by omega, show i < 16 by omega, *]
  split
  · simp [show i < 24 by omega, habove d i (by omega), show i - 8 < 32 by omega, *]
  split
  · simp [habove d i (by omega), habove c (i - 8) (by omega), show i - 16 < 32 by omega, *]
  · simp [habove d i (by omega), habove c (i - 8) (by omega), habove b (i - 16) (by omega), show i - 24 < 32 by omega, *]

theorem ofNat_eq_setWidth_byte {x : Nat} (hx : x < 256) : BitVec.ofNat 32 x = (BitVec.ofNat 8 x).setWidth 32 := by
  apply BitVec.eq_of_toNat_eq
  simp only [BitVec.toNat_ofNat, BitVec.toNat_setWidth]
  omega

/-- The width registers that hold a list of widths, 0 past their number. -/
def widthRegisters (ws : List Nat) : Vector Byte 16 := Vector.ofFn fun k => BitVec.ofNat 8 (ws.getD k.val 0)

theorem widthRegisters_getD (ws : List Nat) {k : Nat} (hk : k < 16) :
    (widthRegisters ws)[k]?.getD 0 = BitVec.ofNat 8 (ws.getD k 0) := by
  rw [widthRegisters, Vector.getElem?_eq_getElem hk, Option.getD_some, Vector.getElem_ofFn]

/-- The words of the staging writes are the words of the width registers. -/
theorem widthWord_eq_packBytes {ws : List Nat} (h : ∀ x ∈ ws, x < 256) (q : Fin 4) :
    widthWord ws q.val = packBytes (widthRegisters ws) q.val := by
  have hbyte (k : Nat) : ws.getD k 0 < 256 := by
    rw [List.getD_eq_getElem?_getD]
    cases hk : ws[k]? with
    | none => decide
    | some x => exact h x (List.mem_of_getElem? hk)
  rw [packBytes, widthRegisters_getD ws (by omega), widthRegisters_getD ws (by omega), widthRegisters_getD ws (by omega),
    widthRegisters_getD ws (by omega), ← shifted_bytes_eq_append, ← ofNat_eq_setWidth_byte (hbyte _),
    ← ofNat_eq_setWidth_byte (hbyte _), ← ofNat_eq_setWidth_byte (hbyte _), ← ofNat_eq_setWidth_byte (hbyte _), widthWord]

theorem writeAll_schema (n : Word) (w : Vector Byte 16) (s : State) :
    writeAll ((.schNfIn, n) :: (List.finRange 4).map fun q => (.schWIn q, packBytes w q.val)) s =
      { s with SCH_NF_IN := n.setWidth 5, SCH_W_IN := w } :=
  congrArg (fun w => (s.setSCH_NF_IN (n.setWidth 5)).setSCH_W_IN w) (setPackedBytes_all s.SCH_W_IN w)

/-- The staging writes of a schema (30_encoding.md R63, 45_toplevel.md R140). -/
theorem serveAll_schemaWrites (n : Word) {ws : List Nat} (h : ∀ x ∈ ws, x < 256) (s : State) :
    serveAll (wrLoc .schNfIn n ++ ((List.finRange 4).map fun q => wrLoc (.schWIn q) (widthWord ws q.val)).flatten) s =
      .next { s with SCH_NF_IN := n.setWidth 5, SCH_W_IN := widthRegisters ws } := by
  rw [← writeAll_schema, ← serveAll_wrLocs _ (by simp [Loc.writable]), List.map_cons, List.flatten_cons, List.map_map]
  simp only [widthWord_eq_packBytes h]
  rfl

/-- Settles O10: the transactions of each pseudo-statement are writes to data locations, which together replace the register. -/
theorem wideWritesReplaceTheRegister : Obligations.WideWritesReplaceTheRegister := by
  unfold Obligations.WideWritesReplaceTheRegister
  intro s
  refine ⟨fun v => ?_, fun v => ?_, fun v => ?_, fun k v => ?_, fun ws hws => ?_⟩
  · rw [serveAll_wr128 (by decide), writeAll_keyIn]
    rfl
  · rw [serveAll_wr128 (by decide), writeAll_blk]
    rfl
  · rw [serveAll_wr64, writeAll_pay]
    rfl
  · rw [serveAll_wr64, writeAll_record]
    rfl
  · rw [Stmt.wellFormed, Bool.and_eq_true, List.all_eq_true] at hws
    obtain ⟨-, hbyte⟩ := hws
    have hserve := serveAll_schemaWrites (BitVec.ofNat 32 ws.length) (fun x hx => of_decide_eq_true (hbyte x hx)) s
    rwa [BitVec.setWidth_ofNat_of_le (by decide)] at hserve

end Sys2Proof.Machine
end

section
/-! SUPPORT. The table of opcodes read in both directions (30_encoding.md R55, R56, R58): the row a word selects gives back the word,
so decoding inverts encoding; which words are legal, field by field; and the list of all commands. -/

namespace Sys2Proof

/-! ### Decoding and encoding are inverse -/

theorem decode_encode (i : Instr) : decode (encode i) = .command i := by
  cases i with
  | putc c => exact Laws.RoundTrip.putc c
  | _ => rfl

/-- A row fixes the whole word, and its command has that word, or it is the row of PUTC (30_encoding.md R56). -/
theorem opcodeRows_cases {r : OpcodeRow} (hr : r ∈ opcodeRows) :
    (r.mask = 0xFFFFFFFF ∧ ∀ c, encode (r.command c) = r.pattern) ∨ r = ⟨0x00000031, 0xFFFF00FF, fun c => .putc c⟩ := by
  simp only [opcodeRows, List.cons_append, List.nil_append, List.mem_cons, List.not_mem_nil, or_false] at hr
  rcases hr with rfl | rfl | rfl | rfl | rfl | rfl | rfl | rfl | rfl | rfl | rfl | rfl | rfl | rfl | rfl | hputc
  case inr => exact .inr hputc
  all_goals exact .inl ⟨rfl, fun _ => rfl⟩

/-- The mask of PUTC's row leaves the `arg` field free and fixes the other two. -/
theorem eq_encode_putc_of_and {w : Word} (h : w &&& 0xFFFF00FF = 0x00000031) : w = encode (.putc (argOf w)) := by
  have hzero : zeroOf w = 0 := by
    have hfield : zeroOf w &&& BitVec.allOnes 16 = 0 := BitVec.extractLsb'_and.symm.trans (congrArg zeroOf h)
    rwa [BitVec.and_allOnes] at hfield
  have hop : opOf w = 0x31 := by
    have hfield : opOf w &&& BitVec.allOnes 8 = 0x31 := BitVec.extractLsb'_and.symm.trans (congrArg opOf h)
    rwa [BitVec.and_allOnes] at hfield
  rw [encode, ← hop]
  exact word_of_fields w hzero

theorem encode_of_selects {r : OpcodeRow} (hr : r ∈ opcodeRows) {w : Word} (h : r.selects w = true) :
    w = encode (r.command (argOf w)) := by
  rw [OpcodeRow.selects, beq_iff_eq] at h
  rcases opcodeRows_cases hr with ⟨hmask, hpattern⟩ | rfl
  · have hall : w &&& BitVec.allOnes 32 = w := BitVec.and_allOnes
    rw [hpattern, ← h, hmask]
    exact hall.symm
  · exact eq_encode_putc_of_and h

theorem eq_encode_of_decode {w : Word} {i : Instr} (h : decode w = .command i) : w = encode i := by
  unfold decode at h
  split at h
  next r hfind =>
    obtain rfl := Decoded.command.inj h
    exact encode_of_selects (List.mem_of_find?_eq_some hfind) (List.find?_some (p := fun r : OpcodeRow => r.selects w) hfind)
  next => cases h

/-- Settles O2: the row that selects a word encodes to it, and the word of a command decodes to it. -/
theorem decodeIffEncode : Obligations.DecodeIffEncode := by
  unfold Obligations.DecodeIffEncode
  exact fun w i => ⟨eq_encode_of_decode, fun h => h ▸ decode_encode i⟩

theorem encode_injective : Function.Injective encode := fun i j h =>
  Decoded.command.inj ((decode_encode i).symm.trans (h ▸ decode_encode j))

/-- The word of PUTC as 30_encoding.md R62 writes it. -/
theorem encode_putc (c : Byte) : encode (.putc c) = 0x00000031#32 ||| (c.setWidth 32 <<< 8) := by
  have hop : ∀ k, k < 32 → (0x00000031#32).getLsbD k = if k < 8 then (0x31#8).getLsbD k else false := by decide
  apply BitVec.eq_of_getLsbD_eq
  intro k hk
  rw [encode, commandWord_getLsbD, BitVec.getLsbD_or, hop k hk, BitVec.getLsbD_shiftLeft, BitVec.getLsbD_setWidth]
  by_cases hlow : k < 8
  · simp [hlow]
  · by_cases harg : k < 16
    · simp [hlow, harg, hk, show k - 8 < 32 by omega]
    · simp [hlow, harg, BitVec.getLsbD_of_ge c (k - 8) (by omega)]

/-- Settles O1: each word of the table is the encoding of its command. -/
theorem tableWordsDecode : Obligations.TableWordsDecode := by
  unfold Obligations.TableWordsDecode
  refine ⟨decode_encode .nop, decode_encode .init, decode_encode .inite, decode_encode .validate, decode_encode .encode,
    decode_encode .decode, decode_encode .pack, decode_encode .unpack, decode_encode .compute, decode_encode .verify,
    decode_encode .mask, decode_encode .unmask, decode_encode .format, decode_encode .parse, decode_encode .txclr, fun c => ?_⟩
  rw [← encode_putc]
  exact decode_encode (.putc c)

/-! ### Legal and illegal words -/

theorem illegal_iff_not_command (w : Word) : (∃ why, decode w = .illegal why) ↔ ¬ ∃ i, decode w = .command i := by
  cases decode w <;> simp

/-- Every opcode of the table is a command with `arg = 0`. -/
theorem exists_encode_of_known_op : ∀ op ∈ CommandWord.knownOps, ∃ i, commandWord 0 op = encode i := by
  simp only [CommandWord.knownOps, List.forall_mem_cons]
  exact ⟨⟨.nop, rfl⟩, ⟨.init, rfl⟩, ⟨.inite, rfl⟩, ⟨.validate, rfl⟩, ⟨.encode, rfl⟩, ⟨.decode, rfl⟩, ⟨.pack, rfl⟩,
    ⟨.unpack, rfl⟩, ⟨.compute, rfl⟩, ⟨.verify, rfl⟩, ⟨.mask, rfl⟩, ⟨.unmask, rfl⟩, ⟨.format, rfl⟩, ⟨.parse, rfl⟩,
    ⟨.txclr, rfl⟩, ⟨.putc 0, rfl⟩, fun _ h => absurd h List.not_mem_nil⟩

/-- The fields of a command's word pass the checks of 30_encoding.md R59. -/
theorem fields_encode (i : Instr) :
    zeroOf (encode i) = 0 ∧ opOf (encode i) ∈ CommandWord.knownOps ∧ (argOf (encode i) = 0 ∨ opOf (encode i) = 0x31) := by
  cases i with
  | putc c => exact ⟨zeroOf_commandWord c _, (opOf_commandWord c 0x31).symm ▸ by decide, .inr (opOf_commandWord c _)⟩
  | _ => decide

/-- A word whose fields pass the checks is a command's. -/
theorem exists_encode_of_fields {w : Word} (hzero : zeroOf w = 0) (hop : opOf w ∈ CommandWord.knownOps)
    (harg : argOf w = 0 ∨ opOf w = 0x31) : ∃ i, w = encode i := by
  have hw := word_of_fields w hzero
  rcases harg with harg | hputc
  · obtain ⟨i, hi⟩ := exists_encode_of_known_op (opOf w) hop
    rw [harg, hi] at hw
    exact ⟨i, hw⟩
  · rw [hputc] at hw
    exact ⟨.putc (argOf w), hw⟩

/-- The checks of 30_encoding.md R59, all passed. -/
theorem command_iff_fields (w : Word) : (∃ i, decode w = .command i) ↔
    zeroOf w = 0 ∧ opOf w ∈ CommandWord.knownOps ∧ (argOf w = 0 ∨ opOf w = 0x31) := by
  simp only [decodeIffEncode w]
  constructor
  · rintro ⟨i, rfl⟩
    exact fields_encode i
  · rintro ⟨hzero, hop, harg⟩
    exact exists_encode_of_fields hzero hop harg

theorem illegal_iff_fields (w : Word) : (∃ why, decode w = .illegal why) ↔
    zeroOf w ≠ 0 ∨ opOf w ∉ CommandWord.knownOps ∨ (argOf w ≠ 0 ∧ opOf w ≠ 0x31) := by
  rw [illegal_iff_not_command, command_iff_fields, not_and_or, not_and_or, not_or]

/-! ### The commands, counted -/

/-- The fifteen commands without an operand, in the order of the table (30_encoding.md R56). -/
def plainCommands : List Instr :=
  [.nop, .init, .inite, .validate, .encode, .decode, .pack, .unpack, .compute, .verify, .mask, .unmask, .format, .parse, .txclr]

/-- Every command once: those without an operand, and PUTC with each byte. -/
def allCommands : List Instr := plainCommands ++ (List.finRange 256).map fun c => .putc (.ofFin c)

theorem mem_allCommands (i : Instr) : i ∈ allCommands := by
  cases i with
  | putc c => exact List.mem_append_right _ (List.mem_map.mpr ⟨c.toFin, List.mem_finRange _, rfl⟩)
  | _ => exact List.mem_append_left _ (by decide)

theorem nodup_allCommands : allCommands.Nodup := by
  refine List.Nodup.append (by decide) ((List.nodup_finRange 256).map fun c d h => ?_) fun i hplain hputc => ?_
  · exact BitVec.ofFin.inj (Instr.putc.inj h)
  · obtain ⟨c, -, rfl⟩ := List.mem_map.mp hputc
    simp [plainCommands] at hplain

theorem length_allCommands : allCommands.length = 271 := by
  rw [allCommands, List.length_append, List.length_map, List.length_finRange]
  rfl

end Sys2Proof

namespace Sys2Proof.Machine

/-- Settles O3: legality field by field, and what a step does with an illegal word. -/
theorem illegalWordSetsErrSix : Obligations.IllegalWordSetsErrSix := by
  unfold Obligations.IllegalWordSetsErrSix
  refine fun w => ⟨illegal_iff_fields w, ?_⟩
  rintro ⟨why, hwhy⟩ s rest hhost
  exact (step_of_cons hhost).trans (serve_illegal hwhy _)

/-- Settles O4: a word decodes to a command or to none, and the words of the 271 commands are all different. -/
theorem decodingIsTotalWith271LegalWords : Obligations.DecodingIsTotalWith271LegalWords := by
  unfold Obligations.DecodingIsTotalWith271LegalWords
  refine ⟨fun w s => ?_, allCommands.map encode, nodup_allCommands.map encode_injective, ?_, fun w => ?_⟩
  · cases hdecode : decode w with
    | command i => exact .inl ⟨i, rfl, serve_command hdecode s⟩
    | illegal why => exact .inr ⟨why, rfl, serve_illegal hdecode s⟩
  · rw [List.length_map, length_allCommands]
  · simp only [decodeIffEncode w, List.mem_map, mem_allCommands, true_and, eq_comm]

end Sys2Proof.Machine
end

section
/-! SUPPORT. What the reading statements of the notation observe, and the claims of `expect` held against it (30_encoding.md R62, R63;
log entries 2 and 18). -/

namespace Sys2Proof.Machine

/-! ### Reading named locations -/

/-- The transactions that read a list of named locations are reads at their indices. -/
theorem rdLocs_eq (ls : List Loc) : (ls.map rdLoc).flatten = (ls.filterMap Loc.idx).map HostEvent.read := by
  induction ls with
  | nil => rfl
  | cons l ls ih =>
    rw [List.map_cons, List.flatten_cons, ih, List.filterMap_cons, rdLoc]
    cases l.idx <;> rfl

/-- Read at their indices, named locations give what they hold. -/
theorem portRead_named {ls : List Loc} (h : ∀ l ∈ ls, l.idx.isSome = true) (s : State) :
    (ls.filterMap Loc.idx).map (portRead s) = ls.map (Loc.read s) := by
  induction ls with
  | nil => rfl
  | cons l ls ih =>
    rw [List.forall_mem_cons] at h
    obtain ⟨i, hi⟩ := Option.isSome_iff_exists.mp h.1
    rw [List.filterMap_cons_some hi, List.map_cons, List.map_cons, ih h.2, portRead_of_idx hi]

theorem Wide64.words_named (name : Wide64) : ∀ l ∈ name.words, l.idx.isSome = true := by
  cases name <;> simp [Wide64.words, Loc.idx]

theorem Wide128.words_named (name : Wide128) : ∀ l ∈ name.words, l.idx.isSome = true := by
  cases name <;> simp [Wide128.words, Loc.idx]

theorem textWords_named : ∀ l ∈ textWords, l.idx.isSome = true := by simp [textWords, Loc.idx]

/-! ### What a reading statement observes -/

/-- From `s` the statement completes, changes nothing but the observed values, and the words it observes join to `v`. -/
def Stmt.Observes (st : Stmt) (s : State) (v : ReadValue) : Prop :=
  ∃ ws : List Word, serveAll st.expand s = .next { s with seen := s.seen ++ ws } ∧ st.reads = ws.length ∧ st.value ws = some v

theorem Stmt.reads_of_expand {st : Stmt} {is : List Index} (h : st.expand = is.map HostEvent.read) : st.reads = is.length := by
  rw [Stmt.reads, h, List.countP_map]
  exact List.countP_eq_length.mpr fun _ _ => rfl

/-- A statement made of reads observes what the port reads. -/
theorem Stmt.observes_of_expand {st : Stmt} {is : List Index} {s : State} {v : ReadValue}
    (hexpand : st.expand = is.map HostEvent.read) (hvalue : st.value (is.map (portRead s)) = some v) : st.Observes s v :=
  ⟨is.map (portRead s), hexpand ▸ serveAll_reads is s, by rw [Stmt.reads_of_expand hexpand, List.length_map], hvalue⟩

/-- A statement that reads named locations observes what they hold. -/
theorem Stmt.observes_of_words {st : Stmt} {ls : List Loc} {s : State} {v : ReadValue} (hnamed : ∀ l ∈ ls, l.idx.isSome = true)
    (hexpand : st.expand = (ls.map rdLoc).flatten) (hvalue : st.value (ls.map (Loc.read s)) = some v) : st.Observes s v :=
  Stmt.observes_of_expand (hexpand.trans (rdLocs_eq ls)) ((portRead_named hnamed s).symm ▸ hvalue)

theorem rdLoc_of_idx {l : Loc} {i : Index} (h : l.idx = some i) : rdLoc l = [i].map HostEvent.read := by
  rw [rdLoc, h]
  rfl

section
variable (s : State)

theorem rd_observes {l : Loc} {i : Index} (h : l.idx = some i) : (Stmt.rd l).Observes s (.word (portRead s i)) :=
  Stmt.observes_of_expand (rdLoc_of_idx h) rfl

theorem rdIdx_observes (i : Index) : (Stmt.rdIdx i).Observes s (.word (portRead s i)) :=
  Stmt.observes_of_expand (is := [i]) rfl rfl

theorem rd64_observes (name : Wide64) : (Stmt.rd64 name).Observes s (.dword (rd64 name s)) :=
  Stmt.observes_of_words name.words_named rfl rfl

theorem rd128_observes (name : Wide128) : (Stmt.rd128 name).Observes s (.block (rd128 name s)) :=
  Stmt.observes_of_words name.words_named rfl rfl

theorem rdtext_observes : Stmt.rdtext.Observes s (.text (rdText s)) :=
  Stmt.observes_of_words textWords_named rfl rfl

end

/-- A program of one reading statement reads the value of that statement. -/
theorem programValues_singleton {st : Stmt} {ws : List Word} {v : ReadValue} (hreads : st.reads = ws.length)
    (hvalue : st.value ws = some v) : programValues [st] ws = [v] := by
  rw [programValues, programValues, hreads, List.take_length, hvalue]
  rfl

/-- Settles O59: each of the statements observes the words of its register, which join to it. -/
theorem readStatementsJoinTheRegister : Obligations.ReadStatementsJoinTheRegister := by
  unfold Obligations.ReadStatementsJoinTheRegister
  intro s st v h
  have hobserves : st.Observes s v := by
    rcases h with ⟨l, i, rfl, hi, rfl⟩ | ⟨i, rfl, rfl⟩ | ⟨rfl, rfl⟩ | ⟨k, rfl, rfl⟩ |
      ⟨rfl, rfl⟩ | ⟨rfl, rfl⟩ | ⟨rfl, rfl⟩ | ⟨rfl, rfl⟩
    · exact rd_observes s hi
    · exact rdIdx_observes s i
    · exact rd64_pay s ▸ rd64_observes s .pay
    · exact rd64_record k s ▸ rd64_observes s (.record k)
    · exact rd128_keyIn s ▸ rd128_observes s .keyIn
    · exact rd128_blk s ▸ rd128_observes s .blk
    · exact rd128_hexbuf s ▸ rd128_observes s .hexbuf
    · exact rdText_eq_tokOut s ▸ rdtext_observes s
  obtain ⟨ws, hserve, hreads, hvalue⟩ := hobserves
  exact ⟨ws, hserve, hreads, hvalue, programValues_singleton hreads hvalue⟩

/-! ### The claim of one statement -/

/-- A program that ends holds its claims against what it added to the observed values. -/
theorem programHolds_of_next {p : List Stmt} {s t : State} {ws : List Word} (h : serveAll (assemble p) s = .next t)
    (hseen : t.seen = s.seen ++ ws) : programHolds p s = programClaims p ws := by
  simp only [programHolds, h, hseen, List.drop_left]

theorem programHolds_singleton {st : Stmt} {s : State} {v claimed : ReadValue} (h : st.Observes s v)
    (hclaim : st.claim = some claimed) : programHolds [st] s = true ↔ v = claimed := by
  obtain ⟨ws, hserve, hreads, hvalue⟩ := h
  have hassemble : assemble [st] = st.expand := by simp [assemble]
  rw [programHolds_of_next (hassemble ▸ hserve) rfl]
  simp [programClaims, Stmt.holds, hreads, hclaim, hvalue]

section
variable (s : State)

theorem expect_holds_iff {l : Loc} {i : Index} (h : l.idx = some i) (v : Word) :
    programHolds [.expect l v] s = true ↔ portRead s i = v :=
  (programHolds_singleton (st := .expect l v) (rd_observes s h) rfl).trans (by rw [ReadValue.word.injEq])

theorem expectIdx_holds_iff (i : Index) (v : Word) : programHolds [.expectIdx i v] s = true ↔ portRead s i = v :=
  (programHolds_singleton (st := .expectIdx i v) (rdIdx_observes s i) rfl).trans (by rw [ReadValue.word.injEq])

theorem expect64_holds_iff (name : Wide64) (v : Dword) : programHolds [.expect64 name v] s = true ↔ rd64 name s = v :=
  (programHolds_singleton (st := .expect64 name v) (rd64_observes s name) rfl).trans (by rw [ReadValue.dword.injEq])

theorem expect128_holds_iff (name : Wide128) (v : Block) : programHolds [.expect128 name v] s = true ↔ rd128 name s = v :=
  (programHolds_singleton (st := .expect128 name v) (rd128_observes s name) rfl).trans (by rw [ReadValue.block.injEq])

theorem expectText_holds_iff (v : Text) : programHolds [.expectText v] s = true ↔ rdText s = v :=
  (programHolds_singleton (st := .expectText v) (rdtext_observes s) rfl).trans (by rw [ReadValue.text.injEq])

end

/-! ### The claims of two programs in sequence -/

theorem portWrite_seen {idx : Index} {v : Word} {s t : State} (h : portWrite idx v s = .next t) : t.seen = s.seen := by
  by_cases hcmd : locate idx = .cmd
  · simp only [portWrite, hcmd, command] at h
    split at h
    · exact (exec_frame h).seen
    · obtain rfl := Host.Outcome.next.inj h
      rfl
  · rw [portWrite_data hcmd] at h
    obtain rfl := Host.Outcome.next.inj h
    obtain ⟨-, -, -, -, -, -, -, -, -, -, -, hseen, -⟩ := (locate idx).write_frame v s
    exact hseen

/-- Serving an event adds one observed value if the event observes, and none otherwise. -/
theorem serve_seen {e : HostEvent} {s t : State} (h : serve e s = .next t) :
    ∃ ws, t.seen = s.seen ++ ws ∧ ws.length = [e].countP HostEvent.observes := by
  cases e with
  | read idx =>
    obtain rfl := Host.Outcome.next.inj h
    exact ⟨[portRead s idx], rfl, rfl⟩
  | write idx v => exact ⟨[], (portWrite_seen h).trans (List.append_nil _).symm, rfl⟩
  | busRead addr bytes =>
    cases hb : bridgeIndex addr bytes with
    | none => simp [serve, hb] at h
    | some idx =>
      simp only [serve, hb] at h
      obtain rfl := Host.Outcome.next.inj h
      exact ⟨[portRead s idx], rfl, rfl⟩
  | busWrite addr bytes v =>
    cases hb : bridgeIndex addr bytes with
    | none => simp [serve, hb] at h
    | some idx =>
      simp only [serve, hb] at h
      exact ⟨[], (portWrite_seen h).trans (List.append_nil _).symm, rfl⟩
  | reset =>
    obtain rfl := Host.Outcome.next.inj h
    exact ⟨[], (List.append_nil _).symm, rfl⟩

theorem serveAll_seen {es : List HostEvent} {s t : State} (h : serveAll es s = .next t) :
    ∃ ws, t.seen = s.seen ++ ws ∧ ws.length = es.countP HostEvent.observes := by
  induction es generalizing s with
  | nil =>
    obtain rfl := Host.Outcome.next.inj h
    exact ⟨[], (List.append_nil _).symm, rfl⟩
  | cons e es ih =>
    obtain ⟨u, hserve, hrest⟩ := serveAll_cons_eq_next h
    obtain ⟨ws, hws, hwslen⟩ := serve_seen hserve
    obtain ⟨ws', hws', hwslen'⟩ := ih hrest
    refine ⟨ws ++ ws', by rw [hws', hws, List.append_assoc], ?_⟩
    rw [List.length_append, hwslen, hwslen', ← List.countP_append, List.singleton_append]

/-- A program observes as many values as its statements. -/
theorem countP_observes_assemble (p : List Stmt) : (assemble p).countP HostEvent.observes = (p.map Stmt.reads).sum := by
  rw [assemble, List.countP_flatten, List.map_map]
  rfl

theorem programHolds_append (p q : List Stmt) {s t : State} (h : serveAll (assemble p) s = .next t) :
    programHolds (p ++ q) s = (programHolds p s && programHolds q t) := by
  obtain ⟨ws, hws, hlen⟩ := serveAll_seen h
  rw [countP_observes_assemble] at hlen
  have hserve : serveAll (assemble (p ++ q)) s = serveAll (assemble q) t := by
    rw [assemble_append, serveAll_append_of_next h]
  cases hq : serveAll (assemble q) t with
  | next u =>
    obtain ⟨ws', hws', -⟩ := serveAll_seen hq
    have hu : u.seen = s.seen ++ (ws ++ ws') := by rw [hws', hws, List.append_assoc]
    rw [programHolds_of_next (hserve.trans hq) hu, programHolds_of_next h hws, programHolds_of_next hq hws',
      programClaims_append, ← hlen, List.take_left, List.drop_left]
  | fault r => cases r
  | refused r => simp [programHolds, hserve, hq]

/-- Settles O60: each `expect` claims what its reading statement observes, and the words of a program in two parts are those the
parts observe. -/
theorem expectHoldsExactlyOnTheValueRead : Obligations.ExpectHoldsExactlyOnTheValueRead := by
  unfold Obligations.ExpectHoldsExactlyOnTheValueRead
  refine ⟨fun s => ⟨fun l i v hi => expect_holds_iff s hi v, expectIdx_holds_iff s, ?_, ?_, ?_, ?_, ?_, ?_⟩, ?_⟩
  · exact rd64_pay s ▸ expect64_holds_iff s .pay
  · exact fun k => rd64_record k s ▸ expect64_holds_iff s (.record k)
  · exact rd128_keyIn s ▸ expect128_holds_iff s .keyIn
  · exact rd128_blk s ▸ expect128_holds_iff s .blk
  · exact rd128_hexbuf s ▸ expect128_holds_iff s .hexbuf
  · exact rdText_eq_tokOut s ▸ expectText_holds_iff s
  · exact fun p q s t h => by rw [programHolds_append p q h, Bool.and_eq_true]

end Sys2Proof.Machine
end

section
/-! SUPPORT. SchemaCodec: the test of a staged or active schema over the width registers, the payload field by field, and the
commands VALIDATE, PACK and UNPACK (40_schemacodec.md R70 to R77). -/

namespace Sys2Proof.Machine

/-! ### The test of a schema (R70) -/

theorem length_le_sum_of_widths {w : List Nat} {n : Nat} (hn : n ≤ w.length) (h : ∀ x ∈ w.take n, 1 ≤ x) :
    n ≤ (w.take n).sum := by
  simpa [hn] using (w.take n).length_le_sum_of_one_le h

/-- Settles O29: widths of at least 1 sum to at least their number, and no width exceeds the sum. -/
theorem validSchemaBounds : Obligations.ValidSchemaBounds := by
  unfold Obligations.ValidSchemaBounds
  intro n w hn
  rw [validate_iff]
  constructor
  · refine ⟨And.right, fun h => ⟨?_, h⟩⟩
    obtain ⟨hwidths, -, hsum⟩ := h
    exact (length_le_sum_of_widths hn hwidths).trans hsum
  · rintro ⟨hn16, -, hpos, hsum⟩
    refine ⟨?_, hn16, fun x hx => (List.le_sum_of_mem hx).trans hsum⟩
    by_contra h0
    obtain rfl : n = 0 := by omega
    simp at hpos

theorem off_le_of_validate {n : Nat} {w : List Nat} (h : validate n w = true) : off w n ≤ 16 := by
  obtain ⟨-, -, -, hsum⟩ := (validate_iff n w).mp h
  exact hsum

theorem widthList_eq_ofFn (w : Vector Byte 16) : widthList w = List.ofFn fun k : Fin 16 => (w[k]).toNat := by
  apply List.ext_getElem
  · simp [widthList]
  · intro k _ _
    simp only [widthList, List.getElem_map, Vector.getElem_toList, List.getElem_ofFn, Fin.getElem_fin]

theorem widthAt_widthList (w : Vector Byte 16) (k : Fin 16) : widthAt (widthList w) k.val = (w[k]).toNat := widthList_getD w k

theorem sum_take_widthList (w : Vector Byte 16) (n : Nat) :
    ((widthList w).take n).sum = ∑ k : Fin 16, if k.val < n then (w[k]).toNat else 0 := by
  rw [widthList_eq_ofFn, List.sum_take_ofFn, Finset.sum_filter]

theorem forall_mem_take_widthList (w : Vector Byte 16) (n : Nat) (p : Nat → Prop) :
    (∀ x ∈ (widthList w).take n, p x) ↔ ∀ k : Fin 16, k.val < n → p (w[k]).toNat := by
  simp only [List.mem_take_iff_getElem, widthList_length]
  constructor
  · exact fun h k hk => h _ ⟨k.val, by omega, by simp [widthList]⟩
  · rintro h x ⟨k, hk, rfl⟩
    simpa [widthList] using h ⟨k, by omega⟩ (show k < n by omega)

theorem stagedValid_iff (s : State) :
    stagedValid s = true ↔
      s.SCH_NF_IN.toNat ≤ 16 ∧ (∀ k : Fin 16, k.val < s.SCH_NF_IN.toNat → 1 ≤ (s.SCH_W_IN[k]).toNat) ∧
      1 ≤ (∑ k : Fin 16, if k.val < s.SCH_NF_IN.toNat then (s.SCH_W_IN[k]).toNat else 0) ∧
      (∑ k : Fin 16, if k.val < s.SCH_NF_IN.toNat then (s.SCH_W_IN[k]).toNat else 0) ≤ 16 := by
  rw [stagedValid, validate_iff, sum_take_widthList, forall_mem_take_widthList]

/-- Settles O28: VALIDATE is the test of the staged schema, read off the width registers. -/
theorem validateTestsTheStagedSchema : Obligations.ValidateTestsTheStagedSchema := by
  unfold Obligations.ValidateTestsTheStagedSchema
  refine ⟨by decide, fun s => ?_⟩
  simp only [← stagedValid_iff]
  rcases stageValidate_cases s with ⟨hvalid, e⟩ | ⟨hinvalid, e⟩
  · rw [if_pos hvalid]
    exact exec_of_done (i := .validate) e
  · rw [if_neg (by simp [hinvalid])]
    exact exec_of_failed (i := .validate) e

/-! ### The fields of a packed payload (R72) -/

theorem sixteen_pow_eq (d : Nat) : 16 ^ d = 2 ^ (4 * d) := by rw [Nat.pow_mul]

/-- The fields packed after the first `m` lie right of them: the digits of the first `m` fields are final. -/
theorem packSum_div (w record : List Nat) {m n : Nat} (hmn : m ≤ n) (hs : off w n ≤ 16) :
    packSum w record n / 2 ^ (64 - 4 * off w m) = packSum w record m / 2 ^ (64 - 4 * off w m) := by
  induction n, hmn using Nat.le_induction with
  | base => rfl
  | succ n hmn ih =>
    have hmono := off_mono w hmn
    have hn := off_mono w (show n ≤ n + 1 by omega)
    have hcut : packSum w record (n + 1) / 2 ^ (64 - 4 * off w n) = packSum w record n / 2 ^ (64 - 4 * off w n) := by
      rw [packSum, Nat.add_div_of_dvd_right (packSum_dvd w record (hn.trans hs)),
        Nat.div_eq_of_lt (field_in_place_lt w record hs), Nat.add_zero]
    have hsplit : 2 ^ (64 - 4 * off w m) = 2 ^ (64 - 4 * off w n) * 2 ^ (4 * (off w n - off w m)) := by
      rw [← Nat.pow_add]
      congr 1
      omega
    rw [← ih (hn.trans hs), hsplit, ← Nat.div_div_eq_div_mul, hcut, Nat.div_div_eq_div_mul]

/-- R74(a) for one field: what is sliced out at field `k` is what was packed there. -/
theorem unpackField_pack (w record : List Nat) {n k : Nat} (hs : off w n ≤ 16) (hk : k < n) :
    unpackField w (pack n w record) k = fieldValue w k (record.getD k 0) := by
  obtain ⟨hwidth, hsh⟩ := sh_add w hs hk
  have hleft : 2 ^ (sh w k + 4 * widthAt w k) ∣ packSum w record k :=
    hwidth ▸ packSum_dvd w record ((off_mono w hk.le).trans hs)
  obtain ⟨q, hq⟩ := hleft
  have hslice : packSum w record n / 2 ^ sh w k = fieldValue w k (record.getD k 0) + 2 ^ (4 * widthAt w k) * q := by
    rw [hsh, packSum_div w record hk hs, ← hsh, packSum, hq, Nat.pow_add, Nat.mul_assoc, Nat.add_comm,
      Nat.add_mul_div_left _ _ (Nat.two_pow_pos _), Nat.mul_div_cancel _ (Nat.two_pow_pos _)]
  rw [unpackField, pack_toNat w record hs, Nat.shiftRight_eq_div_pow, hslice, sixteen_pow_eq, Nat.add_mul_mod_self_left,
    Nat.mod_eq_of_lt (fieldValue_lt w k _)]

/-- R74(d): the padding digits of a packed payload are 0. -/
theorem pack_padding (w record : List Nat) {n : Nat} (hs : off w n ≤ 16) :
    (pack n w record).toNat % 2 ^ (64 - 4 * off w n) = 0 := by
  rw [pack_toNat w record hs]
  exact Nat.mod_eq_zero_of_dvd (packSum_dvd w record hs)

/-- R74(c): `pack` sees a record only through the low-order digits of its values. -/
theorem pack_congr {n : Nat} {w r r' : List Nat}
    (h : ∀ k < n, fieldValue w k (r.getD k 0) = fieldValue w k (r'.getD k 0)) : pack n w r = pack n w r' := by
  have hterms : ((List.range n).map fun k => fieldValue w k (r.getD k 0) * 2 ^ sh w k) =
      (List.range n).map fun k => fieldValue w k (r'.getD k 0) * 2 ^ sh w k :=
    List.map_congr_left fun k hk => by rw [h k (List.mem_range.mp hk)]
  rw [pack, pack, hterms]

/-! ### Packing what was unpacked (R74(b)) -/

theorem unpack_getD {n k : Nat} (w : List Nat) (pay : Dword) (hk : k < n) : (unpack n w pay).getD k 0 = unpackField w pay k := by
  simp [unpack, hk]

theorem fieldValue_unpackField (w : List Nat) (pay : Dword) (k : Nat) :
    fieldValue w k (unpackField w pay k) = unpackField w pay k := Nat.mod_mod _ _

/-- A slice put back in its place, and the digits right of it. -/
theorem unpackField_in_place (w : List Nat) (pay : Dword) (k : Nat) :
    unpackField w pay k * 2 ^ sh w k + pay.toNat % 2 ^ sh w k = pay.toNat % 2 ^ (sh w k + 4 * widthAt w k) := by
  rw [unpackField, Nat.shiftRight_eq_div_pow, sixteen_pow_eq, Nat.pow_add, Nat.mod_mul]
  ring

/-- The first `m` fields of an unpacked payload, packed, are the payload without the digits right of them. -/
theorem packSum_unpack_add_mod (w : List Nat) (pay : Dword) {m n : Nat} (hmn : m ≤ n) (hs : off w n ≤ 16) :
    packSum w (unpack n w pay) m + pay.toNat % 2 ^ (64 - 4 * off w m) = pay.toNat := by
  induction m with
  | zero =>
    have hlt : pay.toNat % 2 ^ 64 = pay.toNat := Nat.mod_eq_of_lt pay.isLt
    simpa [packSum, off] using hlt
  | succ m ih =>
    obtain ⟨hwidth, hsh⟩ := sh_add w hs hmn
    rw [packSum, unpack_getD w pay hmn, fieldValue_unpackField, ← hsh, Nat.add_assoc, unpackField_in_place, hwidth]
    exact ih (by omega)

/-- Settles O32, from the slice at each packed field, the payload put back field by field, and `pack` as a sum of field values. -/
theorem packAndUnpackAreInverse : Obligations.PackAndUnpackAreInverse := by
  unfold Obligations.PackAndUnpackAreInverse
  intro n w _ hvalid
  have hs := off_le_of_validate hvalid
  refine ⟨fun record => ?_, fun pay => ?_, fun r r' h => pack_congr h⟩
  · exact List.map_congr_left fun k hk => unpackField_pack w record hs (List.mem_range.mp hk)
  · rw [pack_toNat w _ hs]
    exact Nat.eq_sub_of_add_eq (packSum_unpack_add_mod w pay le_rfl hs)

/-! ### The commands PACK and UNPACK (R76, R77) -/

theorem validate_of_activeSchemaValid {s : State} (h : activeSchemaValid s = true) :
    validate s.NF.toNat (widthList s.W) = true := by
  rw [activeSchemaValid, Bool.and_eq_true] at h
  exact h.left

section
variable {i : Instr} {s : State} {f : State → Stage} (hi : stages i s = (whenReady s).andThen f)
include hi

theorem exec_of_uninitialized (h : s.STATE = .uninitialized) : exec i s = .next { s with ERR := 2 } := by
  rcases exec_of_whenReady hi with ⟨-, e⟩ | ⟨hready, -⟩
  · exact e
  · simp [h] at hready

theorem exec_of_ready (h : s.STATE = .ready) : exec i s = .next (f s).finish := by
  rcases exec_of_whenReady hi with ⟨huninit, -⟩ | ⟨-, e⟩
  · simp [h] at huninit
  · exact e

end

/-- The slice at field `k` with the offsets read off the width registers (R71). -/
theorem unpackField_widthList (w : Vector Byte 16) (pay : Dword) (k : Fin 16) :
    unpackField (widthList w) pay k.val =
      (pay.toNat >>> (64 - 4 * (((widthList w).take k.val).sum + (w[k]).toNat))) % 16 ^ (w[k]).toNat := by
  rw [unpackField, sh, widthAt_widthList, off]

/-- Settles O30: the packed record holds each field's low-order digits at its place and nothing right of the last field. -/
theorem packLaysOutTheRecord : Obligations.PackLaysOutTheRecord := by
  unfold Obligations.PackLaysOutTheRecord
  refine ⟨by decide, fun s => ⟨exec_of_uninitialized (i := .pack) rfl, fun hready hvalid => ?_⟩⟩
  have hs := off_le_of_validate (validate_of_activeSchemaValid hvalid)
  refine ⟨pack s.NF.toNat (widthList s.W) (recordList s.REC), exec_of_ready (i := .pack) rfl hready,
    fun k hk => ?_, pack_padding _ _ hs⟩
  rw [← unpackField_widthList, unpackField_pack _ _ hs hk, recordList_getD, fieldValue, widthAt_widthList]

/-- Settles O31: the record UNPACK writes, field by field. -/
theorem unpackSlicesThePayload : Obligations.UnpackSlicesThePayload := by
  unfold Obligations.UnpackSlicesThePayload
  refine ⟨by decide, fun s => ⟨exec_of_uninitialized (i := .unpack) rfl, fun hready => ?_⟩⟩
  refine ⟨unpackedRecord s, exec_of_ready (i := .unpack) rfl hready, fun k => ?_⟩
  rw [unpackedRecord_get, unpackField_widthList]

end Sys2Proof.Machine
end

section
/-! SUPPORT. KeyMaterial: the hex characters of a secret, `normalise` case by case, and the slices of a normalized secret
(41_keymaterial.md R81 to R83). -/

namespace Sys2Proof.Machine

/-! ### The digits of a text of hex characters (R80) -/

theorem length_hexDigits_eq_iff {secret : Text} :
    (hexDigits secret).length = secret.length ↔ ∀ b ∈ secret, (hexval b).isSome = true :=
  List.filterMap_length_eq_length

theorem hexval_eq_some_hexDigits {secret : Text} (hex : ∀ b ∈ secret, (hexval b).isSome = true) {j : Nat}
    (hj : j < secret.length) : hexval (secret.getD j 0) = some ((hexDigits secret).getD j 0) := by
  have hvalue : ∀ b ∈ secret, hexval b = some ((hexval b).getD 0) := fun b hb => by
    obtain ⟨d, hd⟩ := Option.isSome_iff_exists.mp (hex b hb)
    rw [hd, Option.getD_some]
  have hdigits : hexDigits secret = secret.map fun b => (hexval b).getD 0 :=
    List.filterMap_eq_map_iff_forall_eq_some.mpr hvalue
  rw [hdigits, List.getD_eq_getElem _ _ hj, List.getD_eq_getElem _ _ (by rwa [List.length_map]), List.getElem_map]
  exact hvalue _ (List.getElem_mem hj)

/-! ### `normalise` (R81) -/

theorem normaliseWith_nil (digest : Text → Block) : normaliseWith digest [] = .ephemeral := rfl

section
variable (digest : Text → Block) {secret : Text}

theorem normaliseWith_of_hex (hlen : secret.length = 32) (hex : ∀ b ∈ secret, (hexval b).isSome = true) :
    normaliseWith digest secret = .key (joinNibs (hexDigits secret)) := by
  have hdigits : (hexDigits secret).length = 32 := (length_hexDigits_eq_iff.mpr hex).trans hlen
  rw [normaliseWith, if_neg (by omega), if_pos ⟨hlen, hdigits⟩]

theorem normaliseWith_of_not_hex (hne : secret ≠ [])
    (hnot : ¬ (secret.length = 32 ∧ ∀ b ∈ secret, (hexval b).isSome = true)) :
    normaliseWith digest secret = .key (digest secret) := by
  have hdigits : ¬ (secret.length = 32 ∧ (hexDigits secret).length = 32) := fun ⟨hlen, hall⟩ =>
    hnot ⟨hlen, length_hexDigits_eq_iff.mp (hall.trans hlen.symm)⟩
  rw [normaliseWith, if_neg (mt List.length_eq_zero_iff.mp hne), if_neg hdigits]

end

/-- Settles O34, a case at a time: the key of 32 hex characters is their digits joined, read back by position. -/
theorem normaliseCases : Obligations.NormaliseCases := by
  unfold Obligations.NormaliseCases
  intro digest secret
  refine ⟨fun hnil => hnil ▸ normaliseWith_nil digest, fun hlen hex => ?_, fun hne hnot => ?_⟩
  · refine ⟨_, normaliseWith_of_hex digest hlen hex, fun j hj => ?_⟩
    rw [hexval_eq_some_hexDigits hex (hlen ▸ hj), ← nib_joinNibs _ ((length_hexDigits_eq_iff.mpr hex).trans hlen) j hj, nib]
  · refine normaliseWith_of_not_hex digest hne fun ⟨hlen, hex⟩ => ?_
    rcases hnot with hshort | ⟨b, hb, hnone⟩
    · exact hshort hlen
    · simpa [hnone] using hex b hb

/-! ### `derive128` (R82, R83) -/

theorem derive128_eq (k : Block) : derive128 k =
    ⟨k.extractLsb' 96 32, k.extractLsb' 64 32 ||| 0x80000000#32, k.extractLsb' 32 32⟩ := by
  rw [derive128, orStr_topBit]

/-- The low bits of a slice are the shorter slice from the same place. -/
theorem slice_low_bits {n len len' : Nat} (x : BitVec n) (start : Nat) (h : len ≤ len') :
    (x.extractLsb' start len').extractLsb' 0 len = x.extractLsb' start len := by
  apply BitVec.eq_of_getLsbD_eq
  intro i hi
  simp [hi, Nat.lt_of_lt_of_le hi h]

theorem or_topBit_getLsbD (x : Word) : (x ||| 0x80000000#32).getLsbD 31 = true := by
  rw [BitVec.getLsbD_or, show (0x80000000#32).getLsbD 31 = true from rfl, Bool.or_true]

theorem or_topBit_extractLsb' (x : Word) : (x ||| 0x80000000#32).extractLsb' 0 31 = x.extractLsb' 0 31 := by
  rw [BitVec.extractLsb'_or, show (0x80000000#32).extractLsb' 0 31 = 0#31 from rfl, BitVec.or_zero]

/-- Settles O33: three slices of the secret, and OR with the top bit sets bit 31 and keeps bits 30 to 0. -/
theorem deriveSlicesTheSecret : Obligations.DeriveSlicesTheSecret := by
  unfold Obligations.DeriveSlicesTheSecret
  intro k
  rw [derive128_eq]
  exact ⟨rfl, rfl, or_topBit_getLsbD _, (or_topBit_extractLsb' _).trans (slice_low_bits k 64 (by decide)), rfl⟩

end Sys2Proof.Machine
end

section
/-! SUPPORT. ChecksumEngine: an iteration of the diffusion pass as one XOR of the buffer, the pass as an induction over its
iterations, the closed form of `compute`, and the commands COMPUTE and VERIFY (42_checksumengine.md R93 to R103). -/

namespace Sys2Proof.Machine

/-! ### One iteration of the pass (R93) -/

/-- An iteration that runs XORs the whole buffer with `index` laid at position `i`: the window is written back in place. -/
theorem scanStep_eq_xor (index : Word) (working : Dword) (i : Nat) :
    scanStep index working i = if working.getMsbD i then working ^^^ placeWindow index i else working := by
  unfold scanStep
  split
  · apply BitVec.eq_of_getMsbD_eq
    intro j hj
    rw [writeWindow_getMsbD _ _ _ _ hj, BitVec.getMsbD_xor, BitVec.getMsbD_xor, window_getMsbD, placeWindow_getMsbD]
    by_cases hwin : i ≤ j ∧ j < i + 32
    · obtain ⟨hij, hji⟩ := hwin
      simp [hij, hji, hj, show j - i < 32 by omega]
    · have : (decide (i ≤ j) && decide (j < i + 32)) = false := by simpa using hwin
      simp [hwin, hj, this]
  · rfl

theorem scanStep_getMsbD (index : Word) (working : Dword) (i : Nat) {j : Nat} (hj : j < 64) :
    (scanStep index working i).getMsbD j =
      (working.getMsbD j ^^ (working.getMsbD i && decide (i ≤ j) && decide (j < i + 32) && index.getMsbD (j - i))) := by
  rw [scanStep_eq_xor]
  cases hbit : working.getMsbD i with
  | true => simp [BitVec.getMsbD_xor, placeWindow_getMsbD, hj]
  | false => simp

/-! ### The pass is its 64 iterations in order -/

theorem scan_eq_foldl (index : Word) (working : Dword) (n : Nat) :
    scan index working n = (List.range n).foldl (scanStep index) working := by
  induction n with
  | zero => rfl
  | succ n ih => rw [scan, ih, List.range_succ, List.foldl_append, List.foldl_cons, List.foldl_nil]

theorem diffuse_eq_foldl (index : Word) (working : Dword) :
    diffuse working index = (List.range 64).foldl (scanStep index) working := scan_eq_foldl index working 64

/-- Settles O37: an iteration is one XOR with the placed `index`, read bit by bit, and the pass is a fold over the positions. -/
theorem scanXorsTheWindowInPlace : Obligations.ScanXorsTheWindowInPlace := by
  unfold Obligations.ScanXorsTheWindowInPlace
  exact ⟨fun index working i _ _ hj => scanStep_getMsbD index working i hj, diffuse_eq_foldl⟩

/-! ### The integer form (R103) -/

theorem and_one_eq_one_iff_getMsbD (working : Dword) {i : Nat} (hi : i < 64) :
    (working >>> (63 - i)) &&& 1 = 1 ↔ working.getMsbD i = true := by
  have hbit : (working >>> (63 - i)).getLsbD 0 = working.getMsbD i := by
    simp [BitVec.getMsbD_eq_getLsbD, hi]
  change _ &&& 1#64 = 1#64 ↔ _
  rw [BitVec.and_one_eq_setWidth_ofBool_getLsbD, hbit]
  cases working.getMsbD i <;> decide

/-- `index` laid at position `i` is a shift of its 64-bit extension, to the left up to position 32 and to the right past it. -/
theorem placeWindow_eq_shift (index : Word) (i : Nat) : placeWindow index i =
    if i ≤ 32 then index.setWidth 64 <<< (32 - i) else index.setWidth 64 >>> (i - 32) := by
  apply BitVec.eq_of_getMsbD_eq
  intro j hj
  rw [placeWindow_getMsbD]
  split
  next hi =>
    rw [BitVec.getMsbD_shiftLeft, BitVec.getMsbD_setWidth, show j + (32 - i) + 32 - 64 = j - i by omega]
    have hstart : 64 - 32 ≤ j + (32 - i) ↔ i ≤ j := by omega
    rcases Nat.lt_or_ge j (i + 32) with hend | hend
    · simp only [hstart, hj, hend, decide_true, Bool.true_and, Bool.and_true]
    · simp [BitVec.getMsbD_of_ge index (j - i) (by omega)]
  next hi =>
    rw [BitVec.getMsbD_ushiftRight, BitVec.getMsbD_setWidth, show j - (i - 32) + 32 - 64 = j - i by omega]
    have hstart : 64 - 32 ≤ j - (i - 32) ↔ i ≤ j := by omega
    have hend : j < i + 32 := by omega
    by_cases hij : i ≤ j
    · simp only [hstart, hj, hend, hij, show ¬ j < i - 32 by omega, decide_true, decide_false, Bool.not_false, Bool.true_and]
    · simp [hstart, hij]

theorem scanStepInt_eq_scanStep (index : Word) (working : Dword) {i : Nat} (hi : i < 64) :
    scanStepInt index working i = scanStep index working i := by
  rw [scanStep_eq_xor, placeWindow_eq_shift]
  simp only [scanStepInt, and_one_eq_one_iff_getMsbD working hi, apply_ite (working ^^^ ·)]

/-- Settles O38: both forms XOR the same value into the buffer, and both passes fold the same iterations. -/
theorem integerFormEqualsWindowForm : Obligations.IntegerFormEqualsWindowForm := by
  unfold Obligations.IntegerFormEqualsWindowForm
  refine ⟨fun index working i hi => scanStepInt_eq_scanStep index working hi, fun working index => ?_⟩
  rw [diffuseInt, diffuse_eq_foldl]
  exact List.foldl_ext _ _ _ fun w i hi => scanStepInt_eq_scanStep index w (List.mem_range.mp hi)

/-! ### The six steps of `compute` (R97) -/

/-- Steps 1 and 2: the upper half of the payload takes `pre`, the lower half stays. -/
theorem working0_eq_xor (pre : Word) (payload : Dword) : working0 pre payload = payload ^^^ (pre ++ 0#32) := by
  calc working0 pre payload
      = (hi64 payload ++ lo64 payload) ^^^ (pre ++ 0#32) := by rw [BitVec.xor_append, BitVec.xor_zero]; rfl
    _ = payload ^^^ (pre ++ 0#32) := by rw [hi64_lo64]

theorem setWidth_strip {n : Nat} (v : BitVec n) (m : Nat) : (strip v).setWidth m = v.setWidth m := by
  apply BitVec.eq_of_toNat_eq
  rw [BitVec.toNat_setWidth, BitVec.toNat_setWidth, strip_toNat]

/-- Steps 4 to 6: stripping and extending keep the value, so the low bits are those of the operands. -/
theorem setWidth_xorStr_strip {n m : Nat} (v : BitVec n) (x : BitVec m) :
    (xorStr (strip v) x).setWidth m = v.setWidth m ^^^ x := by
  have hm : m ≤ max (bitlen v) m := Nat.le_max_right _ _
  rw [xorStr, BitVec.setWidth_xor, setWidth_strip, BitVec.setWidth_setWidth_of_le _ hm, BitVec.setWidth_setWidth_of_le _ hm,
    BitVec.setWidth_eq]

theorem compute_eq (pre index post : Word) (payload : Dword) :
    compute pre index post payload = (diffuse (payload ^^^ (pre ++ 0#32)) index).setWidth 32 ^^^ post := by
  rw [compute, setWidth_xorStr_strip, working0_eq_xor]

/-- Settles O39, from the buffer that the pass starts on and the low bits of what it leaves. -/
theorem computeClosedForm : Obligations.ComputeClosedForm := by
  unfold Obligations.ComputeClosedForm
  exact compute_eq

/-! ### The collapse under a forced top bit (R101) -/

section
variable {index : Word} (htop : index.getLsbD 31 = true)
include htop

/-- With the top bit set, iteration `n` clears bit `n` and leaves the bits before it as they are, so after `n` iterations the
first `n` bits are 0. -/
theorem scan_getMsbD_of_lt (working : Dword) {n j : Nat} (hjn : j < n) (hj : j < 64) :
    (scan index working n).getMsbD j = false := by
  induction n with
  | zero => omega
  | succ n ih =>
    rw [scan, scanStep_getMsbD _ _ _ hj]
    rcases Nat.lt_succ_iff_lt_or_eq.mp hjn with hlt | rfl
    · simp [ih hlt, show ¬ n ≤ j by omega]
    · have hfirst : index.getMsbD 0 = true := htop
      simp [hfirst]

theorem diffuse_eq_zero (working : Dword) : diffuse working index = 0 := by
  apply BitVec.eq_of_getMsbD_eq
  intro j hj
  rw [diffuse, scan_getMsbD_of_lt htop working hj hj]
  exact BitVec.getMsbD_zero.symm

theorem compute_eq_post (pre post : Word) (payload : Dword) : compute pre index post payload = post := by
  rw [compute_eq, diffuse_eq_zero htop]
  exact BitVec.zero_xor

end

/-! ### The commands COMPUTE and VERIFY (R99, R100) -/

theorem exec_compute_of_ready {s : State} (h : s.STATE = .ready) :
    exec .compute s = .next { s with CHK := compute s.PRE s.INDEX s.POST s.PAY, ERR := 0 } := by
  rw [exec_of_ready (i := .compute) rfl h, stageCompute_eq, Stage.finish_done]

/-- Settles O40: iteration by iteration the pass clears the buffer, and a ready state's `INDEX` has its top bit set. -/
theorem forcedTopBitCollapsesTheChecksum : Obligations.ForcedTopBitCollapsesTheChecksum := by
  unfold Obligations.ForcedTopBitCollapsesTheChecksum
  refine ⟨fun working _ htop => diffuse_eq_zero htop working, fun pre _ post payload htop => compute_eq_post htop pre post payload,
    fun s hinv hready => ?_⟩
  rw [exec_compute_of_ready hready, compute_eq_post (hinv.index_top hready)]

/-- Settles O35: COMPUTE is its stage in `Ready` and fails before it otherwise. -/
theorem computeWritesTheChecksum : Obligations.ComputeWritesTheChecksum := by
  unfold Obligations.ComputeWritesTheChecksum
  exact ⟨by decide, fun _ => ⟨exec_of_uninitialized (i := .compute) rfl, exec_compute_of_ready⟩⟩

/-- Settles O36: VERIFY is its stage in `Ready`, which compares and writes nothing. -/
theorem verifyComparesTheChecksum : Obligations.VerifyComparesTheChecksum := by
  unfold Obligations.VerifyComparesTheChecksum
  refine ⟨by decide, fun s => ⟨exec_of_uninitialized (i := .verify) rfl, ?_⟩⟩
  rcases stageVerify_cases s with ⟨heq, hdone⟩ | ⟨hne, hfailed⟩
  · refine ⟨fun hready _ => ?_, fun _ hne => absurd heq hne⟩
    rw [exec_of_ready (i := .verify) rfl hready, hdone, Stage.finish_done]
  · refine ⟨fun _ heq => absurd heq hne, fun hready _ => ?_⟩
    rw [exec_of_ready (i := .verify) rfl hready, hfailed, Stage.finish_failed, ErrCode.code]

end Sys2Proof.Machine
end

section
/-! SUPPORT. CipherMixer: the parts of a masked block read back, a block with agreeing copies put together again, the laws of
mask and unmask, and the commands MASK and UNMASK (43_ciphermixer.md R106 to R110). -/

namespace Sys2Proof.Machine

/-! ### What unmask reads from a masked block -/

@[simp] theorem clearCopy_mask (wf : Word → Block) (c : Word) (p : Dword) : clearCopy (mask wf c p) = c := mask_tail wf c p

@[simp] theorem embeddedCopy_mask (wf : Word → Block) (c : Word) (p : Dword) : embeddedCopy wf (mask wf c p) = c := by
  rw [embeddedCopy, clearCopy_mask, mask_head, xor_cancel_right]

@[simp] theorem unmaskedPayload_mask (wf : Word → Block) (c : Word) (p : Dword) : unmaskedPayload wf (mask wf c p) = p := by
  rw [unmaskedPayload, clearCopy_mask, mask_body, xor_cancel_right]

/-! ### The laws of mask and unmask (R110) -/

theorem unmask_mask (wf : Word → Block) (c : Word) (p : Dword) : unmask wf (mask wf c p) = some (c, p) := by
  simp [unmask_eq]

/-- Whitening the head of a block gives its embedded copy of the checksum, so masking what was read restores a block whose two
copies agree. -/
theorem mask_clearCopy_unmaskedPayload {wf : Word → Block} {b : Block} (hcopies : clearCopy b = embeddedCopy wf b) :
    mask wf (clearCopy b) (unmaskedPayload wf b) = b := by
  apply block_ext_parts
  · calc (mask wf (clearCopy b) (unmaskedPayload wf b)).extractLsb' 96 32
      _ = clearCopy b ^^^ (wf (clearCopy b)).extractLsb' 96 32 := mask_head ..
      _ = embeddedCopy wf b ^^^ (wf (clearCopy b)).extractLsb' 96 32 := congrArg (· ^^^ _) hcopies
      _ = b.extractLsb' 96 32 := by rw [embeddedCopy, xor_cancel_right]
  · rw [mask_body, unmaskedPayload, xor_cancel_right]
  · exact mask_tail ..

theorem unmask_eq_some_iff {wf : Word → Block} {b : Block} {c : Word} {p : Dword} :
    unmask wf b = some (c, p) ↔ b = mask wf c p := by
  refine ⟨fun h => ?_, fun h => h ▸ unmask_mask wf c p⟩
  rw [unmask_eq] at h
  split at h
  next hcopies =>
    cases h
    exact (mask_clearCopy_unmaskedPayload hcopies).symm
  next => cases h

theorem mask_injective {wf : Word → Block} {c c' : Word} {p p' : Dword} (h : mask wf c p = mask wf c' p') :
    c = c' ∧ p = p' := by
  have hread : some (c, p) = some (c', p') := by rw [← unmask_mask wf c p, h, unmask_mask]
  simpa using hread

/-- Under one checksum the whitening cancels: two masks differ where their payloads do. -/
theorem mask_xor_mask (wf : Word → Block) (c : Word) (p p' : Dword) :
    mask wf c p ^^^ mask wf c p' = (0#32 ++ (p ^^^ p') ++ 0#32 : BitVec 128) := by
  apply block_ext_parts
  · rw [BitVec.extractLsb'_xor, mask_head, mask_head, BitVec.xor_self, tokenParts_head]
  · rw [BitVec.extractLsb'_xor, mask_body, mask_body, BitVec.xor_assoc, xor_xor_cancel_comm_assoc, tokenParts_body]
  · rw [BitVec.extractLsb'_xor, mask_tail, mask_tail, BitVec.xor_self, tokenParts_tail]

/-- Settles O43: the parts of a masked block read back give its arguments, and a block whose copies agree is a mask. -/
theorem maskAndUnmaskLaws : Obligations.MaskAndUnmaskLaws := by
  unfold Obligations.MaskAndUnmaskLaws
  exact fun wf => ⟨unmask_mask wf, fun _ _ _ _ => mask_injective, fun _ _ _ => unmask_eq_some_iff, mask_xor_mask wf⟩

/-! ### The commands MASK and UNMASK (R108, R109) -/

/-- Settles O41: MASK writes the mask of `CHK` and `PAY`, which has the three parts. -/
theorem maskAssemblesTheBlock : Obligations.MaskAssemblesTheBlock := by
  unfold Obligations.MaskAssemblesTheBlock
  exact ⟨by decide, fun s => ⟨mask Config.whiten s.CHK s.PAY, exec_of_done (i := .mask) (stageMask_eq Config.whiten s),
    mask_head .., mask_body .., mask_tail ..⟩⟩

/-- Settles O42: UNMASK's stage compares the two copies, and writes `CHK` and `PAY` only when they agree. -/
theorem unmaskChecksTheCopies : Obligations.UnmaskChecksTheCopies := by
  unfold Obligations.UnmaskChecksTheCopies
  refine ⟨by decide, fun s => ?_⟩
  rcases stageUnmask_cases Config.whiten s with ⟨heq, hdone⟩ | ⟨hne, hfailed⟩
  · exact ⟨fun hne => absurd heq hne, fun _ => exec_of_done (i := .unmask) hdone⟩
  · exact ⟨fun _ => exec_of_failed (i := .unmask) hfailed, fun heq => absurd heq hne⟩

end Sys2Proof.Machine
end

section
/-! SUPPORT. Formatter: the token text and what it parses to (44_formatter.md R115 to R117), the commands FORMAT, TXCLR, PUTC and
PARSE (R121 to R124), and a text streamed through the last three (R125). -/

namespace Sys2Proof.Machine

/-! ### The digits of a text -/

theorem hexDigits_append (xs ys : Text) : hexDigits (xs ++ ys) = hexDigits xs ++ hexDigits ys := List.filterMap_append

theorem hexDigits_cons (c : Byte) (text : Text) : hexDigits (c :: text) = (hexval c).toList ++ hexDigits text := by
  cases h : hexval c with
  | none => exact List.filterMap_cons_none h
  | some d => exact List.filterMap_cons_some h

/-- A text parses by the values of its hex characters alone (R116). -/
theorem parse_congr {xs ys : Text} (h : hexDigits xs = hexDigits ys) : parse xs = parse ys := by
  rw [parse, h, parse]

theorem parse_eq_some_iff {text : Text} {b : Block} :
    parse text = some b ↔ (hexDigits text).length = 32 ∧ joinNibs (hexDigits text) = b := by
  simp [parse]

theorem parse_eq_none_iff {text : Text} : parse text = none ↔ (hexDigits text).length ≠ 32 := by
  simp [parse]

/-! ### The laws of parse and toToken (R117) -/

theorem joinNibs_nibs (b : Block) : joinNibs ((List.range 32).map (nib b)) = b := by
  apply block_ext_nib
  intro j hj
  rw [nib_joinNibs _ (by simp) j hj]
  simp [hj]

theorem parse_toToken (b : Block) : parse (toToken b).toList = some b := by
  rw [parse_eq_some_iff, hexDigits_toToken]
  exact ⟨by simp, joinNibs_nibs b⟩

theorem toToken_injective : Function.Injective toToken := fun b b' h =>
  Option.some.inj <| by rw [← parse_toToken b, h, parse_toToken]

theorem parse_dropped {c : Byte} (h : hexval c = none) (xs ys : Text) : parse (xs ++ c :: ys) = parse (xs ++ ys) :=
  parse_congr <| by rw [hexDigits_append, hexDigits_cons, h, hexDigits_append]; rfl

/-- The two cases of a letter have one value: they agree in their low five bits (00_scope.md R16; log entry 17). -/
theorem hexval_lowercase {c : Byte} (hA : 0x41 ≤ c.toNat) (hF : c.toNat ≤ 0x46) : hexval (c + 0x20) = hexval c := by
  have hlower : (c + 0x20).toNat = c.toNat + 0x20 := by
    rw [BitVec.toNat_add]
    exact Nat.mod_eq_of_lt (show c.toNat + 0x20 < 256 by omega)
  rw [hexval_eq, hexval_eq, hlower, if_neg (by omega), if_pos (.inl (by omega)), if_neg (by omega), if_pos (.inr ⟨hA, hF⟩),
    Nat.add_mod_right]

theorem parse_lowercase {c : Byte} (hA : 0x41 ≤ c.toNat) (hF : c.toNat ≤ 0x46) (xs ys : Text) :
    parse (xs ++ c :: ys) = parse (xs ++ (c + 0x20) :: ys) :=
  parse_congr <| by rw [hexDigits_append, hexDigits_cons, hexDigits_append, hexDigits_cons, hexval_lowercase hA hF]

/-- Settles O45: the digits of a token text are those of its block, and dropped characters and case leave the digits alone. -/
theorem parseOfTokenText : Obligations.ParseOfTokenText := by
  unfold Obligations.ParseOfTokenText
  exact ⟨parse_toToken, fun _ _ h => toToken_injective h, fun xs ys _ h => parse_dropped h xs ys,
    fun xs ys _ hA hF => parse_lowercase hA hF xs ys⟩

/-! ### FORMAT (R121) -/

theorem hexchar_toNat : ∀ d : Nibble,
    (hexchar d).toNat = if d.toNat < 10 then 0x30 + d.toNat else 0x61 + d.toNat - 10 := by decide

theorem tokenChar_of_hyphen {t : Nat} (b : Block) (h : isHyphenAt t = true) : tokenChar b t = hyphen := by
  rw [tokenChar, if_pos h]

theorem tokenChar_of_digit {t : Nat} (b : Block) (h : isHyphenAt t = false) : tokenChar b t = hexchar (nib b (digitAt t)) := by
  rw [tokenChar, h, if_neg Bool.false_ne_true]

theorem isHyphenAt_eq_false {t : Nat} (h8 : t ≠ 8) (h13 : t ≠ 13) (h18 : t ≠ 18) (h23 : t ≠ 23) :
    isHyphenAt t = false := by
  simp [isHyphenAt, h8, h13, h18, h23]

theorem toToken_hyphen (b : Block) {t : Nat} (ht : t < 36) (h : isHyphenAt t = true) : (toToken b)[t] = 0x2D :=
  (toToken_get b ⟨t, ht⟩).trans (tokenChar_of_hyphen b h)

theorem exec_format (s : State) : exec .format s = .next { s with TOK_OUT := toToken s.BLK, ERR := 0 } :=
  exec_of_done (i := .format) (t := { s with TOK_OUT := toToken s.BLK }) (stageFormat_eq s)

/-- Settles O44: FORMAT writes the token text of `BLK`, character by character. -/
theorem formatWritesTheTokenText : Obligations.FormatWritesTheTokenText := by
  unfold Obligations.FormatWritesTheTokenText
  refine ⟨by decide, fun s => ⟨toToken s.BLK, exec_format s, toToken_hyphen _ _ rfl,
    toToken_hyphen _ _ rfl, toToken_hyphen _ _ rfl, toToken_hyphen _ _ rfl, fun t h8 h13 h18 h23 => ?_⟩⟩
  rw [toToken_get, tokenChar_of_digit _ (isHyphenAt_eq_false h8 h13 h18 h23)]
  exact hexchar_toNat _

/-! ### TXCLR and PARSE (R122, R124) -/

theorem exec_txclr (s : State) : exec .txclr s = .next { s with HEXBUF := 0, HEXCNT := 0, ERR := 0 } :=
  exec_of_done (i := .txclr) (stageTxclr_eq s)

theorem exec_parse_of_32 {s : State} (h : s.HEXCNT = 32) : exec .parse s = .next { s with BLK := s.HEXBUF, ERR := 0 } := by
  rcases stageParse_cases s with ⟨-, hdone⟩ | ⟨hne, -⟩
  · exact exec_of_done (i := .parse) hdone
  · exact absurd h hne

theorem exec_parse_of_ne_32 {s : State} (h : s.HEXCNT ≠ 32) : exec .parse s = .next { s with ERR := 3 } := by
  rcases stageParse_cases s with ⟨heq, -⟩ | ⟨-, hfailed⟩
  · exact absurd heq h
  · exact exec_of_failed (i := .parse) hfailed

/-- Settles O46: TXCLR is its stage, which cannot fail. -/
theorem txclrStartsAText : Obligations.TxclrStartsAText := by
  unfold Obligations.TxclrStartsAText
  exact ⟨by decide, exec_txclr⟩

/-- Settles O49: PARSE is its stage, which tests the count. -/
theorem parseNeeds32Digits : Obligations.ParseNeeds32Digits := by
  unfold Obligations.ParseNeeds32Digits
  exact ⟨by decide, fun _ => ⟨exec_parse_of_ne_32, exec_parse_of_32⟩⟩

/-! ### PUTC (R123) -/

/-- `HEXBUF` after a hex character of value `d`, when `n` were counted before it (R123). -/
def putDigit (b : Block) (n : BitVec 6) (d : Nibble) : Block := if n.toNat < 32 then setNib b n.toNat d else b

/-- `HEXCNT` after a hex character (R123). -/
def countUp (n : BitVec 6) : BitVec 6 := BitVec.ofNat 6 (min (n.toNat + 1) 33)

theorem countUp_toNat (n : BitVec 6) : (countUp n).toNat = min (n.toNat + 1) 33 :=
  Nat.mod_eq_of_lt (show min (n.toNat + 1) 33 < 64 by omega)

theorem nib_putDigit_same (b : Block) {n : BitVec 6} (d : Nibble) (hn : n.toNat < 32) : nib (putDigit b n d) n.toNat = d := by
  rw [putDigit, if_pos hn, nib_setNib_same _ _ _ hn]

theorem nib_putDigit_ne (b : Block) {n : BitVec 6} (d : Nibble) {j : Nat} (hj : j < 32) (hne : j ≠ n.toNat) :
    nib (putDigit b n d) j = nib b j := by
  unfold putDigit
  split
  next hn => exact nib_setNib_ne _ _ _ _ hn hj hne
  next => rfl

theorem exec_putc_of_none {c : Byte} (h : hexval c = none) (s : State) : exec (.putc c) s = .next { s with ERR := 0 } := by
  rcases stagePutc_cases c s with ⟨-, hdone⟩ | ⟨d, hd, -⟩
  · exact exec_of_done (i := .putc c) hdone
  · cases h.symm.trans hd

theorem exec_putc_of_some {c : Byte} {d : Nibble} (h : hexval c = some d) (s : State) : exec (.putc c) s =
    .next { s with HEXBUF := putDigit s.HEXBUF s.HEXCNT d, HEXCNT := countUp s.HEXCNT, ERR := 0 } := by
  rcases stagePutc_cases c s with ⟨hnone, -⟩ | ⟨d', hd', hdone⟩
  · cases h.symm.trans hnone
  · obtain rfl := Option.some.inj (h.symm.trans hd')
    exact exec_of_done (i := .putc c) hdone

/-- Settles O48: a hex character goes to digit `HEXCNT` and to no other. -/
theorem putcCollectsHexDigits : Obligations.PutcCollectsHexDigits := by
  unfold Obligations.PutcCollectsHexDigits
  refine ⟨encode_putc, fun c s => ⟨fun h => exec_putc_of_none h s, fun d h => ?_⟩⟩
  exact ⟨putDigit s.HEXBUF s.HEXCNT d, countUp s.HEXCNT, exec_putc_of_some h s, countUp_toNat _,
    nib_putDigit_same _ d, fun _ => nib_putDigit_ne _ d⟩

/-! ### A text streamed through PUTC (R125) -/

/-- The parser registers hold what was put since TXCLR: the count, up to 33, and the first 32 of the digits, 0 past them. -/
structure Collected (ds : List Nibble) (b : Block) (n : BitVec 6) : Prop where
  count : n.toNat = min ds.length 33
  digit : ∀ j, j < 32 → nib b j = ds.getD j 0

theorem getD_concat (ds : List Nibble) (d : Nibble) (j : Nat) :
    (ds ++ [d]).getD j 0 = if j = ds.length then d else ds.getD j 0 := by
  rcases Nat.lt_trichotomy j ds.length with hlt | rfl | hgt
  · rw [List.getD_append _ _ _ _ hlt, if_neg hlt.ne]
  · simp
  · rw [if_neg hgt.ne', List.getD_eq_default _ _ hgt.le, List.getD_eq_default _ _ (by simpa using hgt)]

namespace Collected

theorem nil : Collected [] 0 0 := ⟨rfl, fun j _ => nib_zero j⟩

variable {ds : List Nibble} {b : Block} {n : BitVec 6}

/-- Below 32 the count is the number of digits put, so the next one goes to the first place not yet filled. -/
theorem put (h : Collected ds b n) (d : Nibble) : Collected (ds ++ [d]) (putDigit b n d) (countUp n) where
  count := by
    rw [countUp_toNat, h.count, List.length_append, List.length_singleton]
    omega
  digit j hj := by
    have hcount := h.count
    rw [getD_concat]
    by_cases hplace : j = n.toNat
    · rw [if_pos (by omega), hplace, nib_putDigit_same b d (by omega)]
    · rw [if_neg (by omega), nib_putDigit_ne b d hj hplace, h.digit j hj]

theorem count_eq_32_iff (h : Collected ds b n) : n = 32 ↔ ds.length = 32 := by
  have hcount := h.count
  rw [← BitVec.toNat_inj, show (32 : BitVec 6).toNat = 32 from rfl]
  omega

theorem eq_joinNibs (h : Collected ds b n) (hlen : ds.length = 32) : b = joinNibs ds := by
  apply block_ext_nib
  intro j hj
  rw [h.digit j hj, nib_joinNibs ds hlen j hj]

theorem exec_putc (h : Collected ds b n) (s : State) (c : Byte) :
    ∃ b' n', exec (.putc c) { s with HEXBUF := b, HEXCNT := n, ERR := 0 }
        = .next { s with HEXBUF := b', HEXCNT := n', ERR := 0 } ∧ Collected (ds ++ (hexval c).toList) b' n' := by
  cases hc : hexval c with
  | none => exact ⟨b, n, exec_putc_of_none hc _, (List.append_nil ds).symm ▸ h⟩
  | some d => exact ⟨_, _, exec_putc_of_some hc _, h.put d⟩

end Collected

theorem serve_commandEvent (i : Instr) (s : State) : serve (commandEvent (encode i)) s = exec i s :=
  serve_command (decode_encode i) s

/-- One PUTC per byte appends the digits of the text to those collected before it. -/
theorem serveAll_puts {ds : List Nibble} {b : Block} {n : BitVec 6} (h : Collected ds b n) (s : State) (text : Text) :
    ∃ b' n', serveAll (Stmt.puts text).expand { s with HEXBUF := b, HEXCNT := n, ERR := 0 }
        = .next { s with HEXBUF := b', HEXCNT := n', ERR := 0 } ∧ Collected (ds ++ hexDigits text) b' n' := by
  induction text generalizing ds b n with
  | nil => exact ⟨b, n, rfl, (List.append_nil ds).symm ▸ h⟩
  | cons c text ih =>
    obtain ⟨b₁, n₁, hputc, h₁⟩ := h.exec_putc s c
    obtain ⟨b', n', hrest, h'⟩ := ih h₁
    refine ⟨b', n', ?_, ?_⟩
    · exact (serveAll_cons_of_next ((serve_commandEvent (.putc c) _).trans hputc)).trans hrest
    · rwa [hexDigits_cons, ← List.append_assoc]

theorem serveAll_txclr_puts (s : State) (text : Text) :
    ∃ b n, serveAll (assemble [.cmd .txclr, .puts text]) s = .next { s with HEXBUF := b, HEXCNT := n, ERR := 0 } ∧
      Collected (hexDigits text) b n := by
  obtain ⟨b, n, hputs, hcollected⟩ := serveAll_puts .nil s text
  refine ⟨b, n, ?_, hcollected⟩
  have hassemble : assemble [.cmd .txclr, .puts text] = commandEvent (encode .txclr) :: (Stmt.puts text).expand := by
    simp [assemble, Stmt.expand]
  rw [hassemble, serveAll_cons_of_next ((serve_commandEvent .txclr s).trans (exec_txclr s)), hputs]

/-- Settles O50: TXCLR empties the parser registers, each PUTC keeps them at the digits put so far, PARSE tests their
number. -/
theorem streamingEqualsParse : Obligations.StreamingEqualsParse := by
  unfold Obligations.StreamingEqualsParse
  intro s text
  obtain ⟨b, n, hserve, hcollected⟩ := serveAll_txclr_puts s text
  refine ⟨{ s with HEXBUF := b, HEXCNT := n, ERR := 0 }, hserve, rfl, hcollected.count, hcollected.digit, ?_, ?_⟩
  · intro block hparse
    obtain ⟨hlen, hjoin⟩ := parse_eq_some_iff.mp hparse
    rw [exec_parse_of_32 (hcollected.count_eq_32_iff.mpr hlen), ← hjoin, ← hcollected.eq_joinNibs hlen]
  · intro hparse
    exact exec_parse_of_ne_32 (mt hcollected.count_eq_32_iff.mp (parse_eq_none_iff.mp hparse))

end Sys2Proof.Machine
end

section
/-! SUPPORT. Initialisation with whatever secret, the commands NOP, INIT and INITE, and the transitions of the state machine
(45_toplevel.md R130 to R133). -/

namespace Sys2Proof.Machine

/-! ### Initialisation as a command (R132, R133) -/

theorem failedInitMode_eq (p : Config.InitFailState) (m : Mode) :
    failedInitMode p m = if p = .uninit then .uninitialized else m := by cases p <;> rfl

section
variable {i : Instr} {s u : State} {key : Block} (hi : stages i s = initialise Config.initFailState key u)
include hi

theorem exec_of_initialise_valid (h : stagedValid u = true) : exec i s = .next { u with
    NF := u.SCH_NF_IN, W := activatedWidths u, PRE := key.extractLsb' 96 32,
    INDEX := key.extractLsb' 64 32 ||| 0x80000000#32, POST := key.extractLsb' 32 32, STATE := .ready, ERR := 0 } := by
  rcases initialise_cases Config.initFailState key u with ⟨-, e⟩ | ⟨hinvalid, -⟩
  · exact exec_of_done (hi.trans e)
  · simp [h] at hinvalid

theorem exec_of_initialise_invalid (h : stagedValid u = false) : exec i s = .next { u with
    STATE := if Config.initFailState = .uninit then .uninitialized else u.STATE, ERR := 1 } := by
  rcases initialise_cases Config.initFailState key u with ⟨hvalid, -⟩ | ⟨-, e⟩
  · simp [h] at hvalid
  · rw [failedInitMode_eq] at e
    exact exec_of_failed (hi.trans e)

end

/-! ### The commands -/

/-- Settles O25: NOP has no stage that writes, only the end of every command. -/
theorem nopClearsErr : Obligations.NopClearsErr := by
  unfold Obligations.NopClearsErr
  exact ⟨by decide, fun _ => exec_of_done (i := .nop) rfl⟩

/-- Settles O26: INIT is initialisation with `KEY_IN`. -/
theorem initReplacesConfiguration : Obligations.InitReplacesConfiguration := by
  unfold Obligations.InitReplacesConfiguration
  refine ⟨by decide, fun s => ⟨fun hvalid => ?_, exec_of_initialise_invalid (i := .init) rfl⟩⟩
  exact ⟨activatedWidths s, activatedWidths_get s, exec_of_initialise_valid (i := .init) rfl hvalid⟩

/-- Settles O27: INITE is initialisation with the draw, from the state in which the draw is counted. -/
theorem initeUsesTheDraw : Obligations.IniteUsesTheDraw := by
  unfold Obligations.IniteUsesTheDraw
  refine ⟨by decide, fun s => ⟨fun hvalid => ?_, exec_of_initialise_invalid (i := .inite) (u := takeDraw s) rfl⟩⟩
  exact ⟨activatedWidths s, activatedWidths_get s, exec_of_initialise_valid (i := .inite) (u := takeDraw s) rfl hvalid⟩

/-! ### The state machine (R130) -/

theorem STATE_notMem_mayWrite {i : Instr} (hinit : i ≠ .init) (hinite : i ≠ .inite) : .STATE ∉ mayWrite i := by
  cases i <;> simp [mayWrite] at hinit hinite ⊢

/-- Settles O18: reset clears `STATE`, initialisation sets it by the test of the staged schema, and no row of another command
and no location the host can write holds it. -/
theorem stateMachineTransitions : Obligations.StateMachineTransitions := by
  unfold Obligations.StateMachineTransitions
  refine ⟨rfl, fun s rest hhost => ⟨_, step_of_cons hhost, rfl⟩, ?_, fun i s t hinit hinite hexec => ?_,
    fun idx v s t hidx hwrite => ?_⟩
  · rintro i s (rfl | rfl)
    · exact ⟨fun hvalid => ⟨_, exec_of_initialise_valid (i := .init) rfl hvalid, rfl⟩,
        fun hinvalid => ⟨_, exec_of_initialise_invalid (i := .init) rfl hinvalid, rfl⟩⟩
    · exact ⟨fun hvalid => ⟨_, exec_of_initialise_valid (i := .inite) (u := takeDraw s) rfl hvalid, rfl⟩,
        fun hinvalid => ⟨_, exec_of_initialise_invalid (i := .inite) (u := takeDraw s) rfl hinvalid, rfl⟩⟩
  · exact (exec_frame hexec).rows .STATE (STATE_notMem_mayWrite hinit hinite)
  · have hdata := portWrite_data (fun hcmd => hidx (locate_eq_cmd idx hcmd)) v s
    obtain rfl := Host.Outcome.next.inj (hdata.symm.trans hwrite)
    exact (SameControl.write v s _).STATE

end Sys2Proof.Machine
end

section
/-! SUPPORT. ENCODE and DECODE: the ends they can come to, the commands they are made of, and the blocks a configured SCC accepts
(45_toplevel.md R134 to R136, R138(d)). -/

namespace Sys2Proof.Machine

/-! ### ENCODE (R134) -/

theorem encodeStages_of_uninitialized (wf : Word → Block) {s : State} (h : s.STATE = .uninitialized) :
    encodeStages wf s = .failed .uninitialized s := by
  simp only [encodeStages, whenReady_of_uninitialized h, Stage.andThen_failed]

/-- The payload that PACK and ENCODE make of the record. -/
def packed (s : State) : Dword := pack s.NF.toNat (widthList s.W) (recordList s.REC)

theorem exec_pack_of_ready {s : State} (h : s.STATE = .ready) : exec .pack s = .next { s with PAY := packed s, ERR := 0 } := by
  rw [exec_of_ready (i := .pack) rfl h, stagePack_eq, Stage.finish_done, packed]

theorem exec_mask (s : State) : exec .mask s = .next { s with BLK := mask Config.whiten s.CHK s.PAY, ERR := 0 } :=
  exec_of_done (i := .mask) (stageMask_eq Config.whiten s)

theorem exec_encode_of_ready {s : State} (h : s.STATE = .ready) {c : Word} (hc : compute s.PRE s.INDEX s.POST (packed s) = c) :
    exec .encode s = .next { s with
      PAY := packed s, CHK := c, BLK := mask Config.whiten c (packed s),
      TOK_OUT := toToken (mask Config.whiten c (packed s)), ERR := 0 } := by
  subst hc
  exact exec_of_done (i := .encode) (encodeStages_of_ready Config.whiten h)

/-- Settles O51: ENCODE's stages, and the four commands each from the state the one before it left. -/
theorem encodeRunsFourStages : Obligations.EncodeRunsFourStages := by
  unfold Obligations.EncodeRunsFourStages
  refine ⟨by decide, fun s => ⟨fun huninit => ?_, fun hready => ?_, fun hready => ?_⟩⟩
  · exact exec_of_failed (i := .encode) (encodeStages_of_uninitialized Config.whiten huninit)
  · exact ⟨packed s, _, _, rfl, rfl, rfl, exec_encode_of_ready hready rfl⟩
  · exact ⟨_, _, _, _, exec_pack_of_ready hready, exec_compute_of_ready hready, exec_mask _, exec_format _, rfl,
      exec_encode_of_ready hready rfl⟩

/-! ### A configured SCC (R136) -/

/-- What the commands use of a successful initialisation: `Ready`, a schema that passes the test, and the forced top bit. -/
structure Configured (s : State) : Prop where
  ready : s.STATE = .ready
  schema : validate s.NF.toNat (widthList s.W) = true
  index_top : s.INDEX.getLsbD 31 = true

theorem State.Inv.configured {s : State} (hs : s.Inv) (hready : s.STATE = .ready) : Configured s :=
  ⟨hready, validate_of_activeSchemaValid (hs.schema_valid hready), hs.index_top hready⟩

theorem Configured.compute_eq {s : State} (hs : Configured s) (p : Dword) : compute s.PRE s.INDEX s.POST p = s.POST :=
  compute_eq_post hs.index_top _ _ _

/-- What ENCODE leaves in a configured SCC. -/
def encoded (s : State) : State := { s with
  PAY := packed s, CHK := s.POST, BLK := mask Config.whiten s.POST (packed s)
  TOK_OUT := toToken (mask Config.whiten s.POST (packed s)), ERR := 0 }

theorem Configured.exec_encode {s : State} (hs : Configured s) : exec .encode s = .next (encoded s) :=
  exec_encode_of_ready hs.ready (hs.compute_eq _)

/-- Settles O52: under the invariant the checksum of every payload is `POST`. -/
theorem encodeProducesMaskedPost : Obligations.EncodeProducesMaskedPost := by
  unfold Obligations.EncodeProducesMaskedPost
  exact fun s hinv hready => ⟨packed s, exec_pack_of_ready hready, (hinv.configured hready).exec_encode⟩

/-! ### DECODE (R135) -/

theorem decodeStages_of_uninitialized (wf : Word → Block) {s : State} (h : s.STATE = .uninitialized) :
    decodeStages wf s = .failed .uninitialized s := by
  simp only [decodeStages, whenReady_of_uninitialized h, Stage.andThen_failed]

/-- DECODE in `Ready`: its tests in their order, and what each end leaves. -/
theorem exec_decode_of_ready {s : State} (h : s.STATE = .ready) :
    exec .decode s = .next (
      if s.HEXCNT ≠ 32 then { s with ERR := 3 }
      else if clearCopy s.HEXBUF ≠ embeddedCopy Config.whiten s.HEXBUF then { s with BLK := s.HEXBUF, ERR := 4 }
      else if compute s.PRE s.INDEX s.POST (unmaskedPayload Config.whiten s.HEXBUF) ≠ clearCopy s.HEXBUF then
        { s with BLK := s.HEXBUF, CHK := clearCopy s.HEXBUF, PAY := unmaskedPayload Config.whiten s.HEXBUF, ERR := 5 }
      else
        { s with
          BLK := s.HEXBUF, CHK := clearCopy s.HEXBUF, PAY := unmaskedPayload Config.whiten s.HEXBUF
          REC := unpackedRecord { s with PAY := unmaskedPayload Config.whiten s.HEXBUF }, ERR := 0 }) := by
  rcases decodeStages_cases Config.whiten s with ⟨huninit, -⟩ | ⟨-, hcount, e⟩ | ⟨-, hcount, hcopies, e⟩ |
    ⟨-, hcount, hcopies, hchk, e⟩ | ⟨-, hcount, hcopies, hchk, e⟩
  · simp [h] at huninit
  · rw [exec_of_failed (i := .decode) e, if_pos hcount, ErrCode.code]
  · rw [exec_of_failed (i := .decode) e, if_neg (not_not.mpr hcount), if_pos hcopies, ErrCode.code]
  · rw [exec_of_failed (i := .decode) e, if_neg (not_not.mpr hcount), if_neg (not_not.mpr hcopies), if_pos hchk, ErrCode.code]
  · rw [exec_of_done (i := .decode) e, if_neg (not_not.mpr hcount), if_neg (not_not.mpr hcopies), if_neg (not_not.mpr hchk)]

section
variable {s : State} (hready : s.STATE = .ready)
include hready

theorem exec_decode_of_count_ne (hcount : s.HEXCNT ≠ 32) : exec .decode s = .next { s with ERR := 3 } := by
  rw [exec_decode_of_ready hready, if_pos hcount]

variable (hcount : s.HEXCNT = 32)
include hcount

theorem exec_decode_of_copies_ne (hcopies : clearCopy s.HEXBUF ≠ embeddedCopy Config.whiten s.HEXBUF) :
    exec .decode s = .next { s with BLK := s.HEXBUF, ERR := 4 } := by
  rw [exec_decode_of_ready hready, if_neg (not_not.mpr hcount), if_pos hcopies]

variable (hcopies : clearCopy s.HEXBUF = embeddedCopy Config.whiten s.HEXBUF)
include hcopies

theorem exec_decode_of_checksum_ne
    (hchk : compute s.PRE s.INDEX s.POST (unmaskedPayload Config.whiten s.HEXBUF) ≠ clearCopy s.HEXBUF) :
    exec .decode s = .next { s with
      BLK := s.HEXBUF, CHK := clearCopy s.HEXBUF, PAY := unmaskedPayload Config.whiten s.HEXBUF, ERR := 5 } := by
  rw [exec_decode_of_ready hready, if_neg (not_not.mpr hcount), if_neg (not_not.mpr hcopies), if_pos hchk]

theorem exec_decode_of_checksum_eq
    (hchk : compute s.PRE s.INDEX s.POST (unmaskedPayload Config.whiten s.HEXBUF) = clearCopy s.HEXBUF) :
    exec .decode s = .next { s with
      BLK := s.HEXBUF, CHK := clearCopy s.HEXBUF, PAY := unmaskedPayload Config.whiten s.HEXBUF
      REC := unpackedRecord { s with PAY := unmaskedPayload Config.whiten s.HEXBUF }, ERR := 0 } := by
  rw [exec_decode_of_ready hready, if_neg (not_not.mpr hcount), if_neg (not_not.mpr hcopies), if_neg (not_not.mpr hchk)]

end

/-! ### DECODE as a sequence of commands -/

theorem exec_unmask_of_copies_ne {s : State} (h : clearCopy s.BLK ≠ embeddedCopy Config.whiten s.BLK) :
    exec .unmask s = .next { s with ERR := 4 } := by
  rcases stageUnmask_cases Config.whiten s with ⟨heq, -⟩ | ⟨-, hfailed⟩
  · exact absurd heq h
  · exact exec_of_failed (i := .unmask) hfailed

theorem exec_unmask_of_copies_eq {s : State} (h : clearCopy s.BLK = embeddedCopy Config.whiten s.BLK) :
    exec .unmask s = .next { s with CHK := clearCopy s.BLK, PAY := unmaskedPayload Config.whiten s.BLK, ERR := 0 } := by
  rcases stageUnmask_cases Config.whiten s with ⟨-, hdone⟩ | ⟨hne, -⟩
  · exact exec_of_done (i := .unmask) hdone
  · exact absurd h hne

theorem exec_verify_of_eq {s : State} (h : s.STATE = .ready) (hchk : compute s.PRE s.INDEX s.POST s.PAY = s.CHK) :
    exec .verify s = .next { s with ERR := 0 } := by
  rcases stageVerify_cases s with ⟨-, e⟩ | ⟨hne, -⟩
  · rw [exec_of_ready (i := .verify) rfl h, e, Stage.finish_done]
  · exact absurd hchk hne

theorem exec_verify_of_ne {s : State} (h : s.STATE = .ready) (hchk : compute s.PRE s.INDEX s.POST s.PAY ≠ s.CHK) :
    exec .verify s = .next { s with ERR := 5 } := by
  rcases stageVerify_cases s with ⟨heq, -⟩ | ⟨-, e⟩
  · exact absurd heq hchk
  · rw [exec_of_ready (i := .verify) rfl h, e, Stage.finish_failed, ErrCode.code]

theorem exec_unpack_of_ready {s : State} (h : s.STATE = .ready) :
    exec .unpack s = .next { s with REC := unpackedRecord s, ERR := 0 } := by
  rw [exec_of_ready (i := .unpack) rfl h, stageUnpack_eq, Stage.finish_done]

/-- The first of four commands that fails ends DECODE, and DECODE leaves what that command left. -/
theorem exec_decode_eq_sequence {s t₁ t₂ t₃ t₄ : State} (hready : s.STATE = .ready) (h₁ : exec .parse s = .next t₁)
    (h₂ : exec .unmask t₁ = .next t₂) (h₃ : exec .verify t₂ = .next t₃) (h₄ : exec .unpack t₃ = .next t₄) :
    exec .decode s = .next (if t₁.ERR ≠ 0 then t₁ else if t₂.ERR ≠ 0 then t₂ else if t₃.ERR ≠ 0 then t₃ else t₄) := by
  by_cases hcount : s.HEXCNT = 32
  case neg =>
    obtain rfl := Host.Outcome.next.inj (h₁.symm.trans (exec_parse_of_ne_32 hcount))
    exact exec_decode_of_count_ne hready hcount
  obtain rfl := Host.Outcome.next.inj (h₁.symm.trans (exec_parse_of_32 hcount))
  by_cases hcopies : clearCopy s.HEXBUF = embeddedCopy Config.whiten s.HEXBUF
  case neg =>
    obtain rfl := Host.Outcome.next.inj (h₂.symm.trans (exec_unmask_of_copies_ne hcopies))
    exact exec_decode_of_copies_ne hready hcount hcopies
  obtain rfl := Host.Outcome.next.inj (h₂.symm.trans (exec_unmask_of_copies_eq hcopies))
  by_cases hchk : compute s.PRE s.INDEX s.POST (unmaskedPayload Config.whiten s.HEXBUF) = clearCopy s.HEXBUF
  case neg =>
    obtain rfl := Host.Outcome.next.inj (h₃.symm.trans (exec_verify_of_ne hready hchk))
    exact exec_decode_of_checksum_ne hready hcount hcopies hchk
  obtain rfl := Host.Outcome.next.inj (h₃.symm.trans (exec_verify_of_eq hready hchk))
  obtain rfl := Host.Outcome.next.inj (h₄.symm.trans (exec_unpack_of_ready hready))
  exact exec_decode_of_checksum_eq hready hcount hcopies hchk

/-- Settles O53: the ends of DECODE's stages in their order, and the four commands followed until one fails. -/
theorem decodeCommitsStageByStage : Obligations.DecodeCommitsStageByStage := by
  unfold Obligations.DecodeCommitsStageByStage
  refine ⟨by decide, fun s => ⟨fun huninit => ?_, exec_decode_of_count_ne, exec_decode_of_copies_ne, exec_decode_of_checksum_ne,
    fun hready hcount hcopies hchk => ?_, fun hready => ?_⟩⟩
  · exact exec_of_failed (i := .decode) (decodeStages_of_uninitialized Config.whiten huninit)
  · refine ⟨_, exec_decode_of_checksum_eq hready hcount hcopies hchk, fun k => ?_⟩
    rw [unpackedRecord_get, unpackField_widthList]
    rfl
  · have hparse := exec_eq .parse s
    have hunmask := exec_eq .unmask (stages .parse s).finish
    have hverify := exec_eq .verify (stages .unmask (stages .parse s).finish).finish
    exact ⟨_, _, _, _, hparse, hunmask, hverify, exec_eq .unpack _,
      exec_decode_eq_sequence hready hparse hunmask hverify (exec_eq .unpack _)⟩

end Sys2Proof.Machine
end

section
/-! SUPPORT. The blocks a configured SCC accepts, and a changed block by the part it was changed in (45_toplevel.md R136, R138(d)). -/

namespace Sys2Proof.Machine

/-! ### What DECODE answers in a configured SCC (R136) -/

namespace Configured

variable {s : State} (hs : Configured s)
include hs

theorem exec_decode_of_mask (hcount : s.HEXCNT = 32) {p : Dword} (hmask : s.HEXBUF = mask Config.whiten s.POST p) :
    exec .decode s = .next { s with
      BLK := s.HEXBUF, CHK := s.POST, PAY := p, REC := unpackedRecord { s with PAY := p }, ERR := 0 } := by
  have hcopies : clearCopy s.HEXBUF = embeddedCopy Config.whiten s.HEXBUF := by
    rw [hmask, clearCopy_mask, embeddedCopy_mask]
  have hchk : compute s.PRE s.INDEX s.POST (unmaskedPayload Config.whiten s.HEXBUF) = clearCopy s.HEXBUF := by
    rw [hs.compute_eq, hmask, clearCopy_mask]
  rw [exec_decode_of_checksum_eq hs.ready hcount hcopies hchk, hmask, clearCopy_mask, unmaskedPayload_mask]

/-- A clear copy that is not `POST` fails the comparison of the copies or the check against the recomputed checksum. -/
theorem exec_decode_of_clearCopy_ne (hcount : s.HEXCNT = 32) (h : clearCopy s.HEXBUF ≠ s.POST) :
    ∃ t, exec .decode s = .next t ∧ (t.ERR = 4 ∨ t.ERR = 5) ∧ t.REC = s.REC := by
  by_cases hcopies : clearCopy s.HEXBUF = embeddedCopy Config.whiten s.HEXBUF
  · have hchk : compute s.PRE s.INDEX s.POST (unmaskedPayload Config.whiten s.HEXBUF) ≠ clearCopy s.HEXBUF := by
      rw [hs.compute_eq]
      exact h.symm
    exact ⟨_, exec_decode_of_checksum_ne hs.ready hcount hcopies hchk, .inr rfl, rfl⟩
  · exact ⟨_, exec_decode_of_copies_ne hs.ready hcount hcopies, .inl rfl, rfl⟩

theorem mask_of_exec_decode {t : State} (h : exec .decode s = .next t) (herr : t.ERR = 0) :
    s.HEXCNT = 32 ∧ s.HEXBUF = mask Config.whiten s.POST (unmaskedPayload Config.whiten s.HEXBUF) := by
  by_cases hcount : s.HEXCNT = 32
  case neg =>
    obtain rfl := Host.Outcome.next.inj (h.symm.trans (exec_decode_of_count_ne hs.ready hcount))
    cases herr
  refine ⟨hcount, ?_⟩
  by_cases hclear : clearCopy s.HEXBUF = s.POST
  case neg =>
    obtain ⟨u, hu, hfailed, -⟩ := hs.exec_decode_of_clearCopy_ne hcount hclear
    obtain rfl := Host.Outcome.next.inj (h.symm.trans hu)
    simp [herr] at hfailed
  by_cases hcopies : clearCopy s.HEXBUF = embeddedCopy Config.whiten s.HEXBUF
  case neg =>
    obtain rfl := Host.Outcome.next.inj (h.symm.trans (exec_decode_of_copies_ne hs.ready hcount hcopies))
    cases herr
  rw [← hclear, mask_clearCopy_unmaskedPayload hcopies]

end Configured

/-- Settles O54: DECODE completes on the masks of `POST`, and on them alone. -/
theorem decodeAcceptsExactlyMaskedPost : Obligations.DecodeAcceptsExactlyMaskedPost := by
  unfold Obligations.DecodeAcceptsExactlyMaskedPost
  intro s t hinv hready h
  have hs := hinv.configured hready
  refine ⟨⟨fun herr => ?_, fun ⟨hcount, p, hmask⟩ => ?_⟩, fun p herr hmask => ?_⟩
  · obtain ⟨hcount, hmask⟩ := hs.mask_of_exec_decode h herr
    exact ⟨hcount, _, hmask⟩
  · obtain rfl := Host.Outcome.next.inj (h.symm.trans (hs.exec_decode_of_mask hcount hmask))
    rfl
  · obtain ⟨hcount, -⟩ := hs.mask_of_exec_decode h herr
    obtain rfl := Host.Outcome.next.inj (h.symm.trans (hs.exec_decode_of_mask hcount hmask))
    rfl

/-! ### A changed block (R138(d)) -/

section
variable {a b : Block} (htail : a.extractLsb' 0 32 = b.extractLsb' 0 32)
include htail

theorem embeddedCopy_congr (wf : Word → Block) (hhead : a.extractLsb' 96 32 = b.extractLsb' 96 32) :
    embeddedCopy wf a = embeddedCopy wf b := by
  rw [embeddedCopy, embeddedCopy, clearCopy, clearCopy, hhead, htail]

theorem unmaskedPayload_congr (wf : Word → Block) (hbody : a.extractLsb' 32 64 = b.extractLsb' 32 64) :
    unmaskedPayload wf a = unmaskedPayload wf b := by
  rw [unmaskedPayload, unmaskedPayload, clearCopy, clearCopy, hbody, htail]

/-- Under one tail the whitening cancels: two unmasked payloads differ where the middles of their blocks do. -/
theorem unmaskedPayload_xor_unmaskedPayload (wf : Word → Block) :
    unmaskedPayload wf a ^^^ unmaskedPayload wf b = a.extractLsb' 32 64 ^^^ b.extractLsb' 32 64 := by
  rw [unmaskedPayload, unmaskedPayload, clearCopy, clearCopy, htail, BitVec.xor_assoc, xor_xor_cancel_comm_assoc]

end

/-- A block whose copies agree and that is a mask below its head is that mask: the tail fixes the head. -/
theorem eq_mask_of_low_eq {wf : Word → Block} {b : Block} {c : Word} {p : Dword}
    (hlow : b.extractLsb' 0 96 = (mask wf c p).extractLsb' 0 96) (hcopies : clearCopy b = embeddedCopy wf b) :
    b = mask wf c p := by
  have hslice (start len : Nat) (hle : start + len ≤ 96) :
      b.extractLsb' start len = (mask wf c p).extractLsb' start len := by
    rw [← BitVec.extractLsb'_extractLsb'_of_le hle, hlow, BitVec.extractLsb'_extractLsb'_of_le hle]
  have htail := hslice 0 32 (by decide)
  have hclear : clearCopy b = c := htail.trans (mask_tail wf c p)
  have hpay : unmaskedPayload wf b = p := by
    rw [unmaskedPayload_congr htail wf (hslice 32 64 (by decide)), unmaskedPayload_mask]
  rw [← mask_clearCopy_unmaskedPayload hcopies, hclear, hpay]

/-- Settles O56: a changed head leaves the copies different, a changed tail is not `POST`, and a block with head and tail
unchanged is the mask of another payload. -/
theorem tamperDetectionByPart : Obligations.TamperDetectionByPart := by
  unfold Obligations.TamperDetectionByPart
  rintro s p _ hinv hready hcount rfl
  have hs := hinv.configured hready
  refine ⟨fun hlow hne => ?_, fun htail => ?_, fun hhead htail => ?_⟩
  · exact exec_decode_of_copies_ne hready hcount fun hcopies => hne (eq_mask_of_low_eq hlow hcopies)
  · rw [mask_tail] at htail
    exact hs.exec_decode_of_clearCopy_ne hcount htail
  · have hclear : clearCopy s.HEXBUF = s.POST := htail.trans (mask_tail ..)
    have hembedded : embeddedCopy Config.whiten s.HEXBUF = s.POST := by rw [embeddedCopy_congr htail _ hhead, embeddedCopy_mask]
    have hmask := mask_clearCopy_unmaskedPayload (hclear.trans hembedded.symm)
    rw [hclear] at hmask
    refine ⟨_, hs.exec_decode_of_mask hcount hmask.symm, rfl, ?_⟩
    rw [← unmaskedPayload_xor_unmaskedPayload htail Config.whiten, unmaskedPayload_mask]

end Sys2Proof.Machine
end

section
/-! SUPPORT. A text entered with TXCLR and PUTC and decoded, and the record that comes back from the text ENCODE made
(45_toplevel.md R138(a), (b)). -/

namespace Sys2Proof.Machine

/-- The token text of a block, entered, is that block in the parser registers, complete. -/
theorem serveAll_enter_toToken (s : State) (b : Block) : serveAll (assemble [.cmd .txclr, .puts (toToken b).toList]) s =
    .next { s with HEXBUF := b, HEXCNT := 32, ERR := 0 } := by
  obtain ⟨b', n, hserve, hcollected⟩ := serveAll_txclr_puts s (toToken b).toList
  obtain ⟨hlen, hjoin⟩ := parse_eq_some_iff.mp (parse_toToken b)
  obtain rfl := hcollected.count_eq_32_iff.mpr hlen
  obtain rfl := (hcollected.eq_joinNibs hlen).trans hjoin
  exact hserve

theorem serveAll_command (i : Instr) (s : State) : serveAll [commandEvent (encode i)] s = exec i s := by
  rw [exec_eq, serveAll_cons_of_next ((serve_commandEvent i s).trans (exec_eq i s)), serveAll]

theorem serveAll_decodeScript_toToken (s : State) (b : Block) :
    serveAll (decodeScript (toToken b).toList) s = exec .decode { s with HEXBUF := b, HEXCNT := 32, ERR := 0 } := by
  have hscript : decodeScript (toToken b).toList =
      assemble [.cmd .txclr, .puts (toToken b).toList] ++ [commandEvent (encode .decode)] := by
    simp [decodeScript, assemble, Stmt.expand]
  rw [hscript, serveAll_append_of_next (serveAll_enter_toToken s b), serveAll_command]

/-- Unpacking what was packed gives each field back, reduced to its width (40_schemacodec.md R74(a)). -/
theorem Configured.unpackedRecord_packed {s : State} (hs : Configured s) (k : Fin 16) :
    ((unpackedRecord { s with PAY := packed s })[k]).toNat =
      if k.val < s.NF.toNat then (s.REC[k]).toNat % 16 ^ (s.W[k]).toNat else (s.REC[k]).toNat := by
  rw [unpackedRecord_get]
  split
  next hk =>
    have hfield : unpackField (widthList s.W) (packed s) k.val = (s.REC[k]).toNat % 16 ^ (s.W[k]).toNat := by
      rw [packed, unpackField_pack _ _ (off_le_of_validate hs.schema) hk, recordList_getD, fieldValue, widthAt_widthList]
    rw [hfield, BitVec.toNat_ofNat]
    exact Nat.mod_eq_of_lt (Nat.lt_of_le_of_lt (Nat.mod_le _ _) (s.REC[k]).isLt)
  next => rfl

theorem Configured.decode_of_mask_text {s : State} (hs : Configured s) (p : Dword) :
    ∃ u, serveAll (decodeScript (toToken (mask Config.whiten s.POST p)).toList) s = .next u ∧ u.ERR = 0 ∧
      u.REC = unpackedRecord { s with PAY := p } := by
  rw [serveAll_decodeScript_toToken]
  have hentered : Configured { s with HEXBUF := mask Config.whiten s.POST p, HEXCNT := 32, ERR := 0 } :=
    ⟨hs.ready, hs.schema, hs.index_top⟩
  exact ⟨_, hentered.exec_decode_of_mask rfl rfl, rfl, rfl⟩

/-- The text ENCODE made, entered and decoded, gives the record back, each field reduced to its width. -/
theorem Configured.decode_of_encoded_text {s : State} (hs : Configured s) :
    ∃ u, serveAll (decodeScript (encoded s).TOK_OUT.toList) (encoded s) = .next u ∧ u.ERR = 0 ∧
      ∀ k : Fin 16, (u.REC[k]).toNat =
        if k.val < s.NF.toNat then (s.REC[k]).toNat % 16 ^ (s.W[k]).toNat else (s.REC[k]).toNat := by
  have hencoded : Configured (encoded s) := ⟨hs.ready, hs.schema, hs.index_top⟩
  obtain ⟨u, hserve, herr, hrec⟩ := hencoded.decode_of_mask_text (packed s)
  refine ⟨u, hserve, herr, fun k => ?_⟩
  rw [hrec]
  exact hs.unpackedRecord_packed k

/-- Settles O55: the text of ENCODE is that of a mask of `POST`, and unpacking inverts packing. -/
theorem textRoundTrip : Obligations.TextRoundTrip := by
  unfold Obligations.TextRoundTrip
  intro s hinv hready
  have hs := hinv.configured hready
  obtain ⟨u, hdecode⟩ := hs.decode_of_encoded_text
  exact ⟨encoded s, u, hs.exec_encode, hdecode⟩

end Sys2Proof.Machine
end

section
/-! SUPPORT. The driver's Initialize: the widths it stages, the test they meet, and its verdict (45_toplevel.md R140; log entry 11). -/

namespace Sys2Proof.Machine

/-! ### The staged widths -/

/-- A list of at most 16 widths of one byte is what its width registers hold, up to its length. -/
theorem take_widthList_widthRegisters {ws : List Nat} (hlen : ws.length ≤ 16) (hbyte : ∀ x ∈ ws, x < 256) :
    (widthList (widthRegisters ws)).take ws.length = ws := by
  apply List.ext_getElem
  · simpa using hlen
  · intro k _ hk
    have hget : ws.getD k 0 = ws[k] := List.getD_eq_getElem ws 0 hk
    simp only [widthList, widthRegisters, List.getElem_take, List.getElem_map, Vector.getElem_toList, Vector.getElem_ofFn, hget,
      BitVec.toNat_ofNat]
    exact Nat.mod_eq_of_lt (hbyte _ (List.getElem_mem hk))

theorem getElem_widthRegisters_toNat {ws : List Nat} (hbyte : ∀ x ∈ ws, x < 256) (k : Fin 16) :
    ((widthRegisters ws)[k]).toNat = ws.getD k.val 0 := by
  have hlt : ws.getD k.val 0 < 256 := by
    by_cases hk : k.val < ws.length
    · rw [List.getD_eq_getElem _ _ hk]
      exact hbyte _ (List.getElem_mem hk)
    · rw [List.getD_eq_default _ _ (Nat.not_lt.mp hk)]
      decide
  simp only [widthRegisters, Fin.getElem_fin, Vector.getElem_ofFn, BitVec.toNat_ofNat]
  exact Nat.mod_eq_of_lt hlt

/-- The widths of a schema as they are staged (R140). -/
def clampedWidths (schema : SchemaArg) : List Nat := schema.map fun f => clampWidth f.2

theorem clampWidth_lt (w : WidthArg) : clampWidth w < 256 := by
  cases w with
  | int i => simp only [clampWidth]; split_ifs <;> omega
  | notInteger => decide

theorem clampedWidths_lt (schema : SchemaArg) : ∀ x ∈ clampedWidths schema, x < 256 := by
  simp only [clampedWidths, List.forall_mem_map]
  exact fun f _ => clampWidth_lt f.2

theorem clampWidth_int {w : Nat} (h : w ≤ 255) : clampWidth (.int w) = w := by
  simp only [clampWidth]; split_ifs <;> omega

/-- Clamping hides a width only when it gives 0 or 255. -/
theorem eq_int_of_clampWidth {w : WidthArg} (h1 : 1 ≤ clampWidth w) (h254 : clampWidth w < 255) : w = .int (clampWidth w) := by
  cases w with
  | int i =>
    simp only [clampWidth] at h1 h254 ⊢
    split_ifs at h1 h254 ⊢
    · congr; omega
    all_goals omega
  | notInteger => simp [clampWidth] at h1

/-! ### The verdict (R70, R140) -/

/-- The test of a schema as given: integer widths of at least 1 with a sum in 1 to 16. -/
def SchemaArg.Fits (schema : SchemaArg) : Prop :=
  ∃ ws : List Nat, schema.map Prod.snd = ws.map (fun w : Nat => WidthArg.int (w : Int)) ∧
    (∀ w ∈ ws, 1 ≤ w) ∧ 1 ≤ ws.sum ∧ ws.sum ≤ 16

/-- Clamping keeps the verdict (R140). -/
theorem SchemaArg.fits_iff (schema : SchemaArg) : schema.Fits ↔
    (∀ x ∈ clampedWidths schema, 1 ≤ x) ∧ 1 ≤ (clampedWidths schema).sum ∧ (clampedWidths schema).sum ≤ 16 := by
  have hclamped : clampedWidths schema = (schema.map Prod.snd).map clampWidth := by simp [clampedWidths]
  constructor
  · rintro ⟨ws, hint, hpos, hsum1, hsum16⟩
    have hclamp : ∀ w ∈ ws, clampWidth (.int w) = w := fun w hw =>
      clampWidth_int (((List.le_sum_of_mem hw).trans hsum16).trans (by decide))
    have hws : clampedWidths schema = ws := by
      rw [hclamped, hint, List.map_map]
      exact (List.map_congr_left hclamp).trans (List.map_id ws)
    rw [hws]
    exact ⟨hpos, hsum1, hsum16⟩
  · rintro ⟨hpos, hsum1, hsum16⟩
    refine ⟨clampedWidths schema, ?_, hpos, hsum1, hsum16⟩
    rw [clampedWidths, List.map_map]
    refine List.map_congr_left fun f hf => ?_
    have hmem : clampWidth f.2 ∈ clampedWidths schema := List.mem_map_of_mem hf
    have hle := (List.le_sum_of_mem hmem).trans hsum16
    exact eq_int_of_clampWidth (hpos _ hmem) (by omega)

theorem length_clampedWidths (schema : SchemaArg) : (clampedWidths schema).length = schema.length := List.length_map _

theorem SchemaArg.Fits.length_le {schema : SchemaArg} (h : schema.Fits) : schema.length ≤ 16 := by
  obtain ⟨hpos, -, hsum⟩ := schema.fits_iff.mp h
  rw [← length_clampedWidths]
  exact ((clampedWidths schema).length_le_sum_of_one_le hpos).trans hsum

theorem SchemaArg.Fits.width_le {schema : SchemaArg} (h : schema.Fits) : ∀ f ∈ schema, clampWidth f.2 ≤ 16 := by
  obtain ⟨-, -, hsum⟩ := schema.fits_iff.mp h
  exact fun f hf => (List.le_sum_of_mem (List.mem_map_of_mem hf)).trans hsum

/-! ### The scripts of Initialize -/

/-- The staging registers hold what Initialize stages of a schema (R140). -/
structure Staged (schema : SchemaArg) (s : State) : Prop where
  SCH_NF_IN : s.SCH_NF_IN.toNat = min schema.length 31
  SCH_W_IN : s.SCH_W_IN = widthRegisters (clampedWidths (schema.take 16))

theorem serveAll_schemaScript (schema : SchemaArg) (s : State) :
    ∃ t, serveAll (schemaScript schema) s = .next t ∧ Staged schema t := by
  have hserve := serveAll_schemaWrites (BitVec.ofNat 32 (min schema.length 31)) (clampedWidths_lt (schema.take 16)) s
  refine ⟨_, hserve, ?_, rfl⟩
  simp only [BitVec.toNat_setWidth, BitVec.toNat_ofNat]
  omega

/-- The key writes and the command are an initialisation, and leave the staged schema alone. -/
theorem serveAll_keyScript (key : Normalised) (s : State) :
    ∃ secret u, serveAll (keyScript key) s = .next (initialise Config.initFailState secret u).finish ∧
      u.SCH_NF_IN = s.SCH_NF_IN ∧ u.SCH_W_IN = s.SCH_W_IN := by
  cases key with
  | key k =>
    have hkey : serveAll (Stmt.wr128 .keyIn k).expand s = .next (s.setKEY_IN k) := by
      rw [serveAll_wr128 (by decide), writeAll_keyIn]
    refine ⟨k, s.setKEY_IN k, ?_, rfl, rfl⟩
    exact (serveAll_append_of_next hkey).trans ((serveAll_command .init _).trans (exec_eq .init _))
  | ephemeral =>
    exact ⟨Config.draw s.draws, takeDraw s, (serveAll_command .inite s).trans (exec_eq .inite s), rfl, rfl⟩

theorem Staged.stagedValid_iff {schema : SchemaArg} {s : State} (hs : Staged schema s) :
    stagedValid s = true ↔ schema.Fits := by
  rw [stagedValid, hs.SCH_NF_IN, hs.SCH_W_IN, validate_iff]
  by_cases hlen : schema.length ≤ 16
  · have hclamped : (clampedWidths schema).length ≤ 16 := (length_clampedWidths schema).trans_le hlen
    have htake := take_widthList_widthRegisters hclamped (clampedWidths_lt schema)
    rw [length_clampedWidths] at htake
    rw [List.take_of_length_le hlen, Nat.min_eq_left (by omega), htake, schema.fits_iff]
    exact and_iff_right hlen
  · exact ⟨fun ⟨hle, _⟩ => by omega, fun hfits => absurd hfits.length_le hlen⟩

/-- What a successful Initialize leaves in the hardware (R140). -/
structure Initialised (schema : SchemaArg) (s : State) : Prop where
  configured : Configured s
  ERR : s.ERR = 0
  NF : s.NF.toNat = schema.length
  W : ∀ k : Fin 16, (s.W[k]).toNat = (clampedWidths schema).getD k.val 0

theorem Staged.initialise_cases {schema : SchemaArg} {s : State} (hs : Staged schema s) (secret : Block) :
    (schema.Fits ∧ Initialised schema (initialise Config.initFailState secret s).finish) ∨
    (¬ schema.Fits ∧ (initialise Config.initFailState secret s).finish.ERR = 1) := by
  rcases Machine.initialise_cases Config.initFailState secret s with ⟨hvalid, e⟩ | ⟨hinvalid, e⟩
  · have hfits := hs.stagedValid_iff.mp hvalid
    have hlen := hfits.length_le
    have hNF : s.SCH_NF_IN.toNat = schema.length := hs.SCH_NF_IN.trans (Nat.min_eq_left (by omega))
    refine .inl ⟨hfits, ?_⟩
    rw [e]
    exact {
      configured := ⟨rfl, validate_of_activeSchemaValid (activeSchemaValid_of_activated hvalid rfl rfl), or_topBit_getLsbD _⟩
      ERR := rfl
      NF := hNF
      W := fun k => by
        rw [Stage.finish_done, activatedWidths_get, hNF, hs.SCH_W_IN, List.take_of_length_le hlen]
        split
        next => exact getElem_widthRegisters_toNat (clampedWidths_lt schema) k
        next hk => rw [List.getD_eq_default _ _ (by rwa [length_clampedWidths, ← Nat.not_lt])]; rfl }
  · refine .inr ⟨fun hfits => ?_, by rw [e]; rfl⟩
    simp [hs.stagedValid_iff.mpr hfits] at hinvalid

/-! ### Initialize (R140) -/

theorem rdErr_eq_zero_iff (s : State) : rdErr s = 0 ↔ s.ERR = 0 := by
  have hread : rdErr s = s.ERR.setWidth 32 := rfl
  rw [hread, ← BitVec.toNat_inj, ← BitVec.toNat_inj, BitVec.toNat_setWidth_of_le (by decide)]
  rfl

section
variable (digest : Text → Block) (d : Driver) {schema : SchemaArg} (key : Text)

theorem initializeWith_of_repeated (h : ¬ (schema.map Prod.fst).Nodup) :
    Driver.initializeWith digest d schema key = .next (false, d) := by
  rw [Driver.initializeWith, if_neg h]

theorem initializeWith_of_nodup (h : (schema.map Prod.fst).Nodup) :
    (schema.Fits ∧ ∃ hw, Initialised schema hw ∧
      Driver.initializeWith digest d schema key = .next (true, { names := schema.map Prod.fst, hw := hw })) ∨
    (¬ schema.Fits ∧ ∃ hw, hw.ERR = 1 ∧ Driver.initializeWith digest d schema key = .next (false, { d with hw := hw })) := by
  obtain ⟨t, hschema, hstaged⟩ := serveAll_schemaScript schema d.hw
  obtain ⟨secret, u, hkey, hNF, hW⟩ := serveAll_keyScript (normaliseWith digest key) t
  have hserve := (serveAll_append_of_next hschema).trans hkey
  have hu : Staged schema u := ⟨hNF ▸ hstaged.SCH_NF_IN, hW ▸ hstaged.SCH_W_IN⟩
  rw [Driver.initializeWith, if_pos h]
  simp only [hserve, rdErr_eq_zero_iff]
  rcases hu.initialise_cases secret with ⟨hfits, hinit⟩ | ⟨hnot, herr⟩
  · exact .inl ⟨hfits, _, hinit, if_pos hinit.ERR⟩
  · exact .inr ⟨hnot, _, herr, if_neg (by rw [herr]; decide)⟩

/-- A successful Initialize was given a schema that fits, and leaves its names and the hardware initialised with it. -/
theorem initializeWith_eq_true {d' : Driver} (h : Driver.initializeWith digest d schema key = .next (true, d')) :
    schema.Fits ∧ d'.names = schema.map Prod.fst ∧ Initialised schema d'.hw := by
  by_cases hnodup : (schema.map Prod.fst).Nodup
  case neg => cases (initializeWith_of_repeated digest d key hnodup).symm.trans h
  rcases initializeWith_of_nodup digest d key hnodup with ⟨hfits, hw, hinit, e⟩ | ⟨-, hw, -, e⟩
  · cases e.symm.trans h
    exact ⟨hfits, rfl, hinit⟩
  · cases e.symm.trans h

end

/-- Settles O57: the hardware's test of the staged widths is the test of the schema as given. -/
theorem driverInitializeVerdict : Obligations.DriverInitializeVerdict := by
  unfold Obligations.DriverInitializeVerdict
  refine fun digest d schema key => ⟨initializeWith_of_repeated digest d key, fun hnodup => ?_⟩
  rcases initializeWith_of_nodup digest d key hnodup with ⟨hfits, hw, hinit, e⟩ | ⟨hnot, hw, herr, e⟩
  · exact ⟨true, _, e, iff_of_true rfl hfits, fun _ => ⟨rfl, hinit.configured.ready, hinit.NF, hinit.W⟩, nofun⟩
  · exact ⟨false, _, e, iff_of_false Bool.false_ne_true hnot, nofun, fun _ => ⟨rfl, herr⟩⟩

end Sys2Proof.Machine
end

section
/-! SUPPORT. The driver's Encode and Decode, and the round trip at the level of names (45_toplevel.md R138(a), R141, R142). -/

namespace Sys2Proof.Machine

/-! ### The scripts of Encode -/

/-- The record writes of Encode, from register `n` on. -/
def recordWrites (record : Record) (names : List Text) (n : Nat) : List HostEvent :=
  ((names.zipIdx n).map fun f => (Stmt.wr64 (.record (Fin.ofNat 16 f.2)) (recordValue record f.1)).expand).flatten

/-- The writes fill the registers from `n` on with the values of the names in order, and leave those below. -/
theorem serveAll_recordWrites (record : Record) (names : List Text) {n : Nat} (hn : n + names.length ≤ 16) (s : State) :
    ∃ r : Vector Dword 16, serveAll (recordWrites record names n) s = .next { s with REC := r } ∧
      (∀ k : Fin 16, k.val < n → r[k] = s.REC[k]) ∧
      ∀ (j : Nat) (hj : j < names.length) (k : Fin 16), k.val = n + j → r[k] = recordValue record names[j] := by
  induction names generalizing n s with
  | nil => exact ⟨s.REC, rfl, fun _ _ => rfl, fun j hj => absurd hj (Nat.not_lt_zero j)⟩
  | cons name names ih =>
    rw [List.length_cons] at hn
    have hn16 : n < 16 := by omega
    have hcell : Fin.ofNat 16 n = ⟨n, hn16⟩ := Fin.ext (Nat.mod_eq_of_lt hn16)
    have hwrite : serveAll (Stmt.wr64 (.record (Fin.ofNat 16 n)) (recordValue record name)).expand s =
        .next { s with REC := s.REC.set n (recordValue record name) } := by
      rw [hcell, serveAll_wr64, writeAll_record]
      rfl
    obtain ⟨r, hserve, hbelow, hvalues⟩ := ih (n := n + 1) (by omega) { s with REC := s.REC.set n (recordValue record name) }
    refine ⟨r, (serveAll_append_of_next hwrite).trans hserve, fun k hk => ?_, fun j hj k hk => ?_⟩
    · rw [hbelow k (by omega)]
      exact Vector.getElem_set_ne hn16 k.isLt (by omega)
    · cases j with
      | zero =>
        obtain rfl : k.val = n := hk
        rw [hbelow k (by omega)]
        exact Vector.getElem_set_self hn16
      | succ j => exact hvalues j (Nat.lt_of_succ_lt_succ hj) k (by omega)

/-! ### Encode and Decode in a configured SCC (R141, R142) -/

theorem driver_encode_of_configured {d : Driver} {record : Record} {s : State} (hs : Configured s)
    (hserve : serveAll (recordWrites record d.names 0) d.hw = .next s) :
    Driver.encode d record = .next (some (encoded s).TOK_OUT.toList, { d with hw := encoded s }) := by
  have hscript : serveAll (encodeScript d.names record) d.hw = .next (encoded s) :=
    (serveAll_append_of_next hserve).trans ((serveAll_command .encode s).trans hs.exec_encode)
  have hok : rdErr (encoded s) = 0 := (rdErr_eq_zero_iff _).mpr rfl
  simp only [Driver.encode, hscript, if_pos hok, rdText_eq_tokOut]

theorem driver_decode_of_ok {d : Driver} {text : Text} {u : State} (hserve : serveAll (decodeScript text) d.hw = .next u)
    (hok : u.ERR = 0) : Driver.decode d text = .next (.inr (resultRecord d.names u), { d with hw := u }) := by
  simp only [Driver.decode, hserve, if_pos ((rdErr_eq_zero_iff u).mpr hok)]

/-- Decode of the text that Encode has just made completes, and the registers it reads hold the record reduced to its widths. -/
theorem driver_decode_of_encoded {s : State} (hs : Configured s) (names : List Text) :
    ∃ u, Driver.decode ⟨names, encoded s⟩ (encoded s).TOK_OUT.toList = .next (.inr (resultRecord names u), ⟨names, u⟩) ∧
      ∀ k : Fin 16, (u.REC[k]).toNat =
        if k.val < s.NF.toNat then (s.REC[k]).toNat % 16 ^ (s.W[k]).toNat else (s.REC[k]).toNat := by
  obtain ⟨u, hserve, hok, hrec⟩ := hs.decode_of_encoded_text
  exact ⟨u, driver_decode_of_ok hserve hok, hrec⟩

/-- Each name with its register, when the registers hold the values of the schema's names in order. -/
theorem resultRecord_eq {schema : SchemaArg} {u : State} (value : Text → Nat) (hlen : schema.length ≤ 16)
    (h : ∀ (k : Fin 16) (hk : k.val < schema.length), (u.REC[k]).toNat = value schema[k.val].1) :
    resultRecord (schema.map Prod.fst) u = schema.map fun f => (f.1, value f.1) := by
  apply List.ext_getElem
  · simp [resultRecord]
  · intro j hj _
    have hj' : j < schema.length := by simpa [resultRecord] using hj
    have hregister : (u.REC[j]).toNat = value schema[j].1 := h ⟨j, by omega⟩ hj'
    simp [resultRecord, rdRecord, Nat.mod_eq_of_lt (show j < 16 by omega), hregister]

/-! ### The round trip -/

theorem recordValue_toNat {record : Record} {name : Text} {w : Nat} (hw : w ≤ 16)
    (h : (record.lookup name).getD 0 < 16 ^ w) : (recordValue record name).toNat = (record.lookup name).getD 0 := by
  rw [recordValue, BitVec.toNat_ofNat]
  exact Nat.mod_eq_of_lt (h.trans_le (Nat.pow_le_pow_right (by decide) hw))

/-- The writes of Encode leave the hardware initialised, with the record in its registers. -/
theorem Initialised.serveAll_recordWrites {schema : SchemaArg} {s : State} (hs : Initialised schema s)
    (hlen : schema.length ≤ 16) (record : Record) :
    ∃ t, serveAll (recordWrites record (schema.map Prod.fst) 0) s = .next t ∧ Initialised schema t ∧
      ∀ (k : Fin 16) (hk : k.val < schema.length), t.REC[k] = recordValue record schema[k.val].1 := by
  have hnames : (schema.map Prod.fst).length = schema.length := List.length_map _
  obtain ⟨r, hserve, -, hvalues⟩ := Machine.serveAll_recordWrites record (schema.map Prod.fst) (n := 0) (by omega) s
  obtain ⟨⟨hready, hschema, htop⟩, hok, hNF, hW⟩ := hs
  refine ⟨_, hserve, ⟨⟨hready, hschema, htop⟩, hok, hNF, hW⟩, fun k hk => ?_⟩
  exact (hvalues k.val (by omega) k (Nat.zero_add _).symm).trans (congrArg (recordValue record) (List.getElem_map _))

theorem Initialised.width {schema : SchemaArg} {s : State} (hs : Initialised schema s) {k : Fin 16}
    (hk : k.val < schema.length) : (s.W[k]).toNat = clampWidth schema[k.val].2 := by
  rw [hs.W, clampedWidths, List.getD_eq_getElem _ _ (by simpa using hk), List.getElem_map]

/-- Settles O58: the values written are read back reduced to their widths, in which they fit. -/
theorem driverRoundTrip : Obligations.DriverRoundTrip := by
  unfold Obligations.DriverRoundTrip
  rintro digest d ⟨names, hw⟩ schema key record hinitialize hfit
  obtain ⟨hfits, hnames, hinit⟩ := initializeWith_eq_true digest d key hinitialize
  obtain rfl : names = schema.map Prod.fst := hnames
  obtain ⟨s, hserve, hs, hvalues⟩ := hinit.serveAll_recordWrites hfits.length_le record
  obtain ⟨u, hdecode, hrec⟩ := driver_decode_of_encoded hs.configured (schema.map Prod.fst)
  have hresult : resultRecord (schema.map Prod.fst) u = schema.map fun f => (f.1, (record.lookup f.1).getD 0) := by
    refine resultRecord_eq (fun name => (record.lookup name).getD 0) hfits.length_le fun k hk => ?_
    have hmem : schema[k.val] ∈ schema := List.getElem_mem hk
    rw [hrec k, if_pos (hs.NF ▸ hk), hvalues k hk, hs.width hk, recordValue_toNat (hfits.width_le _ hmem) (hfit _ hmem)]
    exact Nat.mod_eq_of_lt (hfit _ hmem)
  rw [hresult] at hdecode
  exact ⟨_, _, _, driver_encode_of_configured hs.configured hserve, by simp, hdecode⟩

end Sys2Proof.Machine
end

section
/-! SUPPORT. Why a command fails and what its failure leaves: the causes of 60_exceptions.md R153 to R157 in the order of R159.
A failed command leaves its cause in place, so that it fails alike when it is issued again (R162). -/

namespace Sys2Proof.Machine

/-! ### The commands that need `Ready` (R156) -/

/-- The commands that read the active configuration. -/
def readyCommands : List Instr := [.pack, .unpack, .compute, .verify, .encode, .decode]

theorem stages_of_uninitialized {i : Instr} {s : State} (hi : i ∈ readyCommands) (h : s.STATE = .uninitialized) :
    stages i s = .failed .uninitialized s := by
  have hfirst (f : State → Stage) : (whenReady s).andThen f = .failed .uninitialized s := by
    rw [whenReady_of_uninitialized h, Stage.andThen_failed]
  cases i with
  | pack | unpack | compute | verify => exact hfirst _
  | encode => exact encodeStages_of_uninitialized _ h
  | decode => exact decodeStages_of_uninitialized _ h
  | _ => simp [readyCommands] at hi

theorem Completes.ne_failed {a : List Reg} {f : State → Stage} (hf : Completes a f) (s : State) {e : ErrCode} {u : State} :
    f s ≠ .failed e u := by
  obtain ⟨t, hdone, -⟩ := hf s
  simp [hdone]

/-! ### The causes of a failure (R153 to R157) -/

/-- From `s` the command fails with this code and leaves this state, but for `ERR`: one constructor per cause. -/
inductive Fails (s : State) : Instr → ErrCode → State → Prop
  /-- The staged schema is invalid (R153); INIT and INITE then write `STATE` (45_toplevel.md R132), and INITE has drawn (log
  entry 4). -/
  | init : stagedValid s = false → Fails s .init .invalidSchema { s with STATE := failedInitMode Config.initFailState s.STATE }
  | inite : stagedValid s = false → Fails s .inite .invalidSchema
      { s with STATE := failedInitMode Config.initFailState s.STATE, draws := s.draws + 1 }
  | validate : stagedValid s = false → Fails s .validate .invalidSchema s
  /-- The first test of a command that needs `Ready` (R156). -/
  | notReady {i : Instr} : i ∈ readyCommands → s.STATE = .uninitialized → Fails s i .uninitialized s
  /-- The text put did not have 32 hex characters (R154). -/
  | parse : s.HEXCNT ≠ 32 → Fails s .parse .malformedToken s
  | decodeCount : s.STATE = .ready → s.HEXCNT ≠ 32 → Fails s .decode .malformedToken s
  /-- The two copies of the checksum differ (R155). -/
  | unmask : clearCopy s.BLK ≠ embeddedCopy Config.whiten s.BLK → Fails s .unmask .formatInvalid s
  | decodeCopies : s.STATE = .ready → s.HEXCNT = 32 → clearCopy s.HEXBUF ≠ embeddedCopy Config.whiten s.HEXBUF →
      Fails s .decode .formatInvalid { s with BLK := s.HEXBUF }
  /-- The recomputed checksum differs (R157). -/
  | verify : s.STATE = .ready → compute s.PRE s.INDEX s.POST s.PAY ≠ s.CHK → Fails s .verify .checksumMismatch s
  | decodeChecksum : s.STATE = .ready → s.HEXCNT = 32 → clearCopy s.HEXBUF = embeddedCopy Config.whiten s.HEXBUF →
      compute s.PRE s.INDEX s.POST (unmaskedPayload Config.whiten s.HEXBUF) ≠ clearCopy s.HEXBUF →
      Fails s .decode .checksumMismatch
        { s with BLK := s.HEXBUF, CHK := clearCopy s.HEXBUF, PAY := unmaskedPayload Config.whiten s.HEXBUF }

/-- A command that tests for `Ready` first fails by that test, or by what comes after it. -/
theorem fails_of_whenReady {i : Instr} {s u : State} {e : ErrCode} {f : State → Stage} (hi : i ∈ readyCommands)
    (h : (whenReady s).andThen f = .failed e u) (hf : s.STATE = .ready → f s = .failed e u → Fails s i e u) :
    Fails s i e u := by
  rcases s.mode_cases with hm | hm
  · rw [whenReady_of_uninitialized hm] at h
    cases h
    exact .notReady hi hm
  · rw [whenReady_of_ready hm] at h
    exact hf hm h

/-- The causes are all there are: a command whose stages fail has one of them. -/
theorem fails_of_stages {i : Instr} {s u : State} {e : ErrCode} (h : stages i s = .failed e u) : Fails s i e u := by
  cases i with
  | nop => cases h
  | mask => exact absurd h ((stageMask_completes _).ne_failed s)
  | format => exact absurd h (stageFormat_completes.ne_failed s)
  | txclr => exact absurd h (stageTxclr_completes.ne_failed s)
  | putc c => exact absurd h ((stagePutc_completes c).ne_failed s)
  | init =>
    rcases initialise_cases Config.initFailState s.KEY_IN s with ⟨-, hs⟩ | ⟨hinvalid, hs⟩ <;> cases hs.symm.trans h
    exact .init hinvalid
  | inite =>
    rcases initialise_cases Config.initFailState (Config.draw s.draws) (takeDraw s) with ⟨-, hs⟩ | ⟨hinvalid, hs⟩ <;>
      cases hs.symm.trans h
    exact .inite hinvalid
  | validate =>
    rcases stageValidate_cases s with ⟨-, hs⟩ | ⟨hinvalid, hs⟩ <;> cases hs.symm.trans h
    exact .validate hinvalid
  | parse =>
    rcases stageParse_cases s with ⟨-, hs⟩ | ⟨hcount, hs⟩ <;> cases hs.symm.trans h
    exact .parse hcount
  | unmask =>
    rcases stageUnmask_cases Config.whiten s with ⟨-, hs⟩ | ⟨hcopies, hs⟩ <;> cases hs.symm.trans h
    exact .unmask hcopies
  | pack => exact fails_of_whenReady (by decide) h fun _ hs => absurd hs (stagePack_completes.ne_failed s)
  | unpack => exact fails_of_whenReady (by decide) h fun _ hs => absurd hs (stageUnpack_completes.ne_failed s)
  | compute => exact fails_of_whenReady (by decide) h fun _ hs => absurd hs (stageCompute_completes.ne_failed s)
  | verify =>
    refine fails_of_whenReady (by decide) h fun hm hs => ?_
    rcases stageVerify_cases s with ⟨-, hv⟩ | ⟨hchk, hv⟩ <;> cases hv.symm.trans hs
    exact .verify hm hchk
  | encode =>
    rcases s.mode_cases with hm | hm
    · cases (encodeStages_of_uninitialized Config.whiten hm).symm.trans h
      exact .notReady (by decide) hm
    · cases (encodeStages_of_ready Config.whiten hm).symm.trans h
  | decode =>
    rcases decodeStages_cases Config.whiten s with ⟨hm, hs⟩ | ⟨hm, hcount, hs⟩ | ⟨hm, hcount, hcopies, hs⟩ |
      ⟨hm, hcount, hcopies, hchk, hs⟩ | ⟨-, -, -, -, hs⟩ <;> cases hs.symm.trans h
    · exact .notReady (by decide) hm
    · exact .decodeCount hm hcount
    · exact .decodeCopies hm hcount hcopies
    · exact .decodeChecksum hm hcount hcopies hchk

/-- Each cause makes the command fail so. -/
theorem Fails.exec_eq {i : Instr} {s u : State} {e : ErrCode} (h : Fails s i e u) :
    exec i s = .next { u with ERR := e.code } := by
  cases h with
  | init hinvalid =>
    rw [failedInitMode_eq]
    exact exec_of_initialise_invalid (i := .init) rfl hinvalid
  | inite hinvalid =>
    rw [failedInitMode_eq]
    exact exec_of_initialise_invalid (i := .inite) (u := takeDraw s) rfl hinvalid
  | validate hinvalid =>
    rcases stageValidate_cases s with ⟨hvalid, -⟩ | ⟨-, hs⟩
    · simp [hinvalid] at hvalid
    · exact exec_of_failed (i := .validate) hs
  | notReady hi hm => exact exec_of_failed (stages_of_uninitialized hi hm)
  | parse hcount => exact exec_parse_of_ne_32 hcount
  | decodeCount hm hcount => exact exec_decode_of_count_ne hm hcount
  | unmask hcopies => exact exec_unmask_of_copies_ne hcopies
  | decodeCopies hm hcount hcopies => exact exec_decode_of_copies_ne hm hcount hcopies
  | verify hm hchk => exact exec_verify_of_ne hm hchk
  | decodeChecksum hm hcount hcopies hchk => exact exec_decode_of_checksum_ne hm hcount hcopies hchk

/-- A command that failed had a cause. -/
theorem exists_fails_of_exec {i : Instr} {s t : State} (h : exec i s = .next t) (herr : t.ERR ≠ 0) :
    ∃ e u, Fails s i e u ∧ t = { u with ERR := e.code } := by
  cases hs : stages i s with
  | done u =>
    obtain rfl := Host.Outcome.next.inj ((exec_of_done hs).symm.trans h)
    exact absurd rfl herr
  | failed e u => exact ⟨e, u, fails_of_stages hs, Host.Outcome.next.inj (h.symm.trans (exec_of_failed hs))⟩

theorem ErrCode.eq_of_code_eq {e e' : ErrCode} : e.code = e'.code → e = e' := by
  cases e <;> cases e' <;> decide

/-- `ERR` holds the code of a failure exactly when that failure has a cause. -/
theorem err_eq_code_iff {i : Instr} {s t : State} (h : exec i s = .next t) {e : ErrCode} (he : e ≠ .ok) :
    t.ERR = e.code ↔ ∃ u, Fails s i e u := by
  refine ⟨fun hcode => ?_, fun ⟨u, hu⟩ => ?_⟩
  · obtain ⟨e', u, hu, rfl⟩ := exists_fails_of_exec h (by rwa [hcode, Ne, ErrCode.code_eq_zero])
    obtain rfl := ErrCode.eq_of_code_eq hcode
    exact ⟨u, hu⟩
  · obtain rfl := Host.Outcome.next.inj (h.symm.trans hu.exec_eq)
    rfl

/-! ### Each code and its cause (R151, R159) -/

section
variable (i : Instr) (s : State)

theorem fails_invalidSchema_iff :
    (∃ u, Fails s i .invalidSchema u) ↔ i ∈ [Instr.init, .inite, .validate] ∧ stagedValid s = false := by
  refine ⟨?_, fun ⟨hi, hinvalid⟩ => ?_⟩
  · rintro ⟨u, h⟩
    cases h with
    | init hinvalid | inite hinvalid | validate hinvalid => exact ⟨by decide, hinvalid⟩
  · simp only [List.mem_cons, List.not_mem_nil, or_false] at hi
    rcases hi with rfl | rfl | rfl
    · exact ⟨_, .init hinvalid⟩
    · exact ⟨_, .inite hinvalid⟩
    · exact ⟨_, .validate hinvalid⟩

theorem fails_uninitialized_iff : (∃ u, Fails s i .uninitialized u) ↔ i ∈ readyCommands ∧ s.STATE = .uninitialized := by
  refine ⟨?_, fun ⟨hi, hm⟩ => ⟨_, .notReady hi hm⟩⟩
  rintro ⟨u, h⟩
  cases h with
  | notReady hi hm => exact ⟨hi, hm⟩

theorem fails_malformedToken_iff :
    (∃ u, Fails s i .malformedToken u) ↔ (i = .parse ∨ i = .decode ∧ s.STATE = .ready) ∧ s.HEXCNT ≠ 32 := by
  refine ⟨?_, ?_⟩
  · rintro ⟨u, h⟩
    cases h with
    | parse hcount => exact ⟨.inl rfl, hcount⟩
    | decodeCount hm hcount => exact ⟨.inr ⟨rfl, hm⟩, hcount⟩
  · rintro ⟨rfl | ⟨rfl, hm⟩, hcount⟩
    · exact ⟨_, .parse hcount⟩
    · exact ⟨_, .decodeCount hm hcount⟩

theorem fails_formatInvalid_iff : (∃ u, Fails s i .formatInvalid u) ↔
    (i = .unmask ∧ clearCopy s.BLK ≠ embeddedCopy Config.whiten s.BLK) ∨
    (i = .decode ∧ s.STATE = .ready ∧ s.HEXCNT = 32 ∧ clearCopy s.HEXBUF ≠ embeddedCopy Config.whiten s.HEXBUF) := by
  refine ⟨?_, ?_⟩
  · rintro ⟨u, h⟩
    cases h with
    | unmask hcopies => exact .inl ⟨rfl, hcopies⟩
    | decodeCopies hm hcount hcopies => exact .inr ⟨rfl, hm, hcount, hcopies⟩
  · rintro (⟨rfl, hcopies⟩ | ⟨rfl, hm, hcount, hcopies⟩)
    · exact ⟨_, .unmask hcopies⟩
    · exact ⟨_, .decodeCopies hm hcount hcopies⟩

theorem fails_checksumMismatch_iff : (∃ u, Fails s i .checksumMismatch u) ↔
    (i = .verify ∧ s.STATE = .ready ∧ compute s.PRE s.INDEX s.POST s.PAY ≠ s.CHK) ∨
    (i = .decode ∧ s.STATE = .ready ∧ s.HEXCNT = 32 ∧ clearCopy s.HEXBUF = embeddedCopy Config.whiten s.HEXBUF ∧
      compute s.PRE s.INDEX s.POST (unmaskedPayload Config.whiten s.HEXBUF) ≠ clearCopy s.HEXBUF) := by
  refine ⟨?_, ?_⟩
  · rintro ⟨u, h⟩
    cases h with
    | verify hm hchk => exact .inl ⟨rfl, hm, hchk⟩
    | decodeChecksum hm hcount hcopies hchk => exact .inr ⟨rfl, hm, hcount, hcopies, hchk⟩
  · rintro (⟨rfl, hm, hchk⟩ | ⟨rfl, hm, hcount, hcopies, hchk⟩)
    · exact ⟨_, .verify hm hchk⟩
    · exact ⟨_, .decodeChecksum hm hcount hcopies hchk⟩

end

/-- No command fails with the code of an illegal word, the only one past 5. -/
theorem Fails.code_le {i : Instr} {s u : State} {e : ErrCode} (h : Fails s i e u) : e.code.toNat ≤ 5 := by
  cases h <;> decide

/-- Settles O22: the causes are complete, and each one sets its code. -/
theorem eachCodeHasItsCause : Obligations.EachCodeHasItsCause := by
  unfold Obligations.EachCodeHasItsCause
  intro i s t h
  refine ⟨?_, ?_, ?_, ?_, ?_, ?_⟩
  · exact (err_eq_code_iff h (e := .invalidSchema) (by decide)).trans (fails_invalidSchema_iff i s)
  · exact (err_eq_code_iff h (e := .uninitialized) (by decide)).trans (fails_uninitialized_iff i s)
  · exact (err_eq_code_iff h (e := .malformedToken) (by decide)).trans (fails_malformedToken_iff i s)
  · exact (err_eq_code_iff h (e := .formatInvalid) (by decide)).trans (fails_formatInvalid_iff i s)
  · exact (err_eq_code_iff h (e := .checksumMismatch) (by decide)).trans (fails_checksumMismatch_iff i s)
  · by_cases herr : t.ERR = 0
    · simp [herr]
    · obtain ⟨e, u, hu, rfl⟩ := exists_fails_of_exec h herr
      exact hu.code_le

/-- Settles O21: the test for `Ready` is the first of the six commands' stages, and the only cause of the code 2. -/
theorem uninitializedIsTestedFirst : Obligations.UninitializedIsTestedFirst := by
  unfold Obligations.UninitializedIsTestedFirst
  refine ⟨fun i s hi hm => exec_of_failed (stages_of_uninitialized hi hm), fun i s hi => ⟨_, exec_eq i s, fun herr => ?_⟩⟩
  obtain ⟨-, htwo, -⟩ := eachCodeHasItsCause i s _ (exec_eq i s)
  exact hi (htwo.mp herr).1

/-! ### Completion (R161) and issuing a failed command again (R162) -/

/-- Settles O23: a command is its stages and an end, and serving an event comes to a next state or is a refused bus access. -/
theorem noStepFaults : Obligations.NoStepFaults := by
  unfold Obligations.NoStepFaults
  refine ⟨fun i s => ⟨_, exec_eq i s⟩, fun s => ?_⟩
  cases hhost : s.host with
  | nil => exact .inl ⟨s, step_of_nil hhost⟩
  | cons e rest =>
    rw [step_of_cons hhost]
    rcases serve_cases e { s with host := rest } with
      ⟨idx, he⟩ | ⟨idx, v, -, -, he⟩ | ⟨w, -, ⟨i, -, he⟩ | ⟨why, -, he⟩⟩ | ⟨-, he⟩ | ⟨hnot, hrefused⟩
    · exact .inl ⟨_, he⟩
    · exact .inl ⟨_, he⟩
    · exact .inl ⟨_, he.trans (exec_eq i _)⟩
    · exact .inl ⟨_, he⟩
    · exact .inl ⟨_, he⟩
    · exact .inr ⟨e, rest, rfl, hnot, hrefused⟩

theorem failedInitMode_idem (p : Config.InitFailState) (m : Mode) :
    failedInitMode p (failedInitMode p m) = failedInitMode p m := by
  cases p <;> rfl

/-- The cause of a failure stands in the state the failure leaves. -/
theorem Fails.again {i : Instr} {s u : State} {e : ErrCode} (h : Fails s i e u) :
    Fails { u with ERR := e.code } i e
      (if i = .inite then { u with ERR := e.code, draws := u.draws + 1 } else { u with ERR := e.code }) := by
  cases h with
  | init hinvalid =>
    have hagain := Fails.init (s := { s with STATE := failedInitMode Config.initFailState s.STATE, ERR := 1 }) hinvalid
    simp only [failedInitMode_idem] at hagain
    exact hagain
  | inite hinvalid =>
    have hagain := Fails.inite
      (s := { s with STATE := failedInitMode Config.initFailState s.STATE, draws := s.draws + 1, ERR := 1 }) hinvalid
    simp only [failedInitMode_idem] at hagain
    exact hagain
  | validate hinvalid => exact .validate hinvalid
  | notReady hi hm =>
    rw [if_neg (by rintro rfl; exact absurd hi (by decide))]
    exact .notReady hi hm
  | parse hcount => exact .parse hcount
  | decodeCount hm hcount => exact .decodeCount hm hcount
  | unmask hcopies => exact .unmask hcopies
  | decodeCopies hm hcount hcopies => exact .decodeCopies hm hcount hcopies
  | verify hm hchk => exact .verify hm hchk
  | decodeChecksum hm hcount hcopies hchk => exact .decodeChecksum hm hcount hcopies hchk

/-- Settles O24: the failed command finds its cause again and fails as before. -/
theorem retryFailsAlike : Obligations.RetryFailsAlike := by
  unfold Obligations.RetryFailsAlike
  intro i s t h herr
  obtain ⟨e, u, hu, rfl⟩ := exists_fails_of_exec h herr
  rw [hu.again.exec_eq]
  split <;> rfl

end Sys2Proof.Machine
end

section
/-! SUPPORT. The reset input: every register goes to its reset value, while the fields that are no registers stay
(70_reset_and_hazards.md R171; log entry 16). -/

namespace Sys2Proof.Machine

theorem serve_reset (s : State) :
    serve .reset s = .next { State.reset with host := s.host, seen := s.seen, draws := s.draws } := rfl

/-- Settles O15: the step serves the reset, from the state in which only `rest` is still pending. -/
theorem resetInputTakesResetValues : Obligations.ResetInputTakesResetValues := by
  unfold Obligations.ResetInputTakesResetValues
  intro s rest hhost
  exact (step_of_cons hhost).trans (serve_reset { s with host := rest })

end Sys2Proof.Machine
end
